-- ==== Sys2Proof/Word.lean ====
section
/-! DEFINITION. The word types of RCDEC (10_state.md R11 to R26, 30_encoding.md R61). -/

namespace Sys2Proof

/-- A byte of the serial stream or of the frame buffer. -/
abbrev Byte := BitVec 8

/-- A channel value, a pulse width in a bank, a DSM slot: 16 bits unsigned (R11, R19, R21, R71). -/
abbrev Half := BitVec 16

/-- A 32-bit time stamp or measured width (R16 to R18, R25, R202). -/
abbrev Stamp := BitVec 32

/-- The 3-bit protocol selector (R12, R62). -/
abbrev Psel := BitVec 3

end Sys2Proof
end

