-- ==== Sys2Proof/Config.lean ====
section
/-! DEFINITION. What an implementation fixes (00_scope.md R7: the record `Cfg`, its legality, REFCFG) and the free
values (48_ibus.md R185: the collaborator's answers; 41_normalizer.md R100: SCALE outside `lo < hi`). -/

namespace Sys2Proof

/-- The named parameters of 00_scope.md R7, one field a row. Byte values are bytes; times, thresholds and counts
are naturals. -/
structure Cfg where
  sbusFooters : List Byte
  sbusLostMask : Byte
  sbusFsMask : Byte
  sbusByteTo : Nat
  sbusFrameTo : Nat
  crsfSync : Byte
  crsfTypeRc : Byte
  crsfLenMin : Nat
  crsfLenMax : Nat
  crsfByteTo : Nat
  crsfFrameTo : Nat
  dsmByteTo : Nat
  dsmFrameTo : Nat
  fportHdr : Byte
  fportLenByte : Byte
  fportTypeRc : Byte
  fportByteTo : Nat
  fportFrameTo : Nat
  ppmNoiseMin : Nat
  ppmChMin : Nat
  ppmChMax : Nat
  ppmSyncMin : Nat
  ppmSyncMax : Nat
  ppmAbsMax : Nat
  ppmMaxMissed : Nat
  ppmTimeoutMs : Nat
  ibusNch : Nat
  pselPpm : Psel
  pselIbus : Psel
  pselSbus : Psel
  pselCrsf : Psel
  pselDsm2 : Psel
  pselDsmx : Psel
  pselFport : Psel
deriving DecidableEq, Repr

/-- "one bit set" (R7, the rows of the two SBUS masks). -/
abbrev OneBit (m : Byte) : Prop := ∃ k : Fin 8, m = 1#8 <<< k.val

/-- The last column of R7's table: the constraints a legal Cfg meets. -/
structure Cfg.Legal (c : Cfg) : Prop where
  footersFour : c.sbusFooters.length = 4 ∧ c.sbusFooters.Nodup
  footersZero : 0x00#8 ∈ c.sbusFooters
  lostOneBit : OneBit c.sbusLostMask
  fsOneBit : OneBit c.sbusFsMask
  masksDiffer : c.sbusFsMask ≠ c.sbusLostMask
  byteTimeouts : c.sbusByteTo < 2 ^ 31 ∧ c.crsfByteTo < 2 ^ 31 ∧ c.dsmByteTo < 2 ^ 31 ∧ c.fportByteTo < 2 ^ 31
  frameTimeouts : c.sbusFrameTo < 2 ^ 31 ∧ c.crsfFrameTo < 2 ^ 31 ∧ c.dsmFrameTo < 2 ^ 31 ∧ c.fportFrameTo < 2 ^ 31
  crsfLen : 2 ≤ c.crsfLenMin ∧ c.crsfLenMin ≤ 24 ∧ 24 ≤ c.crsfLenMax ∧ c.crsfLenMax ≤ 62
  ppmChannel : c.ppmNoiseMin ≤ c.ppmChMin ∧ c.ppmChMin ≤ 1500 ∧ 1500 ≤ c.ppmChMax ∧ c.ppmChMax ≤ c.ppmSyncMin
  ppmChFits : c.ppmChMax ≤ 65535
  ppmSync : c.ppmSyncMin < 4000 ∧ 4000 < c.ppmSyncMax ∧ c.ppmSyncMax ≤ c.ppmAbsMax
  ppmAbs : c.ppmAbsMax < 2 ^ 31
  maxMissed : c.ppmMaxMissed ≤ 254
  ppmTimeout : c.ppmTimeoutMs < 2 ^ 31
  ibusCount : 1 ≤ c.ibusNch ∧ c.ibusNch ≤ 16
  codesDistinct :
    [c.pselPpm, c.pselIbus, c.pselSbus, c.pselCrsf, c.pselDsm2, c.pselDsmx, c.pselFport].Nodup

/-- REFCFG, the reference values of R7 (the configuration of the vectors of 95_test_vectors.md). -/
def refcfg : Cfg where
  sbusFooters := [0x00#8, 0x04#8, 0x14#8, 0x24#8]
  sbusLostMask := 0x04#8
  sbusFsMask := 0x08#8
  sbusByteTo := 3
  sbusFrameTo := 100
  crsfSync := 0xC8#8
  crsfTypeRc := 0x16#8
  crsfLenMin := 2
  crsfLenMax := 62
  crsfByteTo := 2
  crsfFrameTo := 100
  dsmByteTo := 5
  dsmFrameTo := 100
  fportHdr := 0x7E#8
  fportLenByte := 0x19#8
  fportTypeRc := 0x00#8
  fportByteTo := 3
  fportFrameTo := 100
  ppmNoiseMin := 300
  ppmChMin := 800
  ppmChMax := 2200
  ppmSyncMin := 3000
  ppmSyncMax := 30000
  ppmAbsMax := 50000
  ppmMaxMissed := 10
  ppmTimeoutMs := 100
  ibusNch := 14
  pselPpm := 0#3
  pselIbus := 1#3
  pselSbus := 2#3
  pselCrsf := 3#3
  pselDsm2 := 4#3
  pselDsmx := 5#3
  pselFport := 6#3

/-- The decoder a selector code stands for (R62); `rsvd` is the reserved code (R63). -/
inductive Protocol where
  | ppm | ibus | sbus | crsf | dsm2 | dsmx | fport | rsvd
deriving DecidableEq, Repr

/-- One answer of `ibus_advance()` (30_encoding.md R78): `new`, and the decoded values, of which the adapter reads
the first IBUS_NCH. -/
structure IbusAnswer where
  new : Bool
  vals : Vector Half 16
deriving DecidableEq, Repr, Inhabited

/-- FREE VALUE (log entry 2): the collaborator is an oracle, "each call returns any `(new, vals)` whatever" (R185).
The n-th answer that no entry of State's `ibusAns` gives. -/
opaque Config.ibusAnswer : Nat → IbusAnswer

/-- FREE VALUE (log entry 10): SCALE is defined for `lo < hi` only (R100); its value for any other operands is not
stated. -/
opaque Config.scaleUnstated : Nat → Nat → Nat → Nat

end Sys2Proof
end

