-- ==== Sys2Proof/Syntax.lean ====
section
/-! DEFINITION. The 34 operations of RCDEC, one constructor per row of opcode_table.json (30_encoding.md R60), with
the operands their rules give them, and the names by which the decoder rejects. -/

namespace Sys2Proof

/-- The bit width of a DSM slot value: 10 for DSM2, 11 for DSMX (45_dsm.md R145). -/
inductive Width where
  | ten | eleven
deriving DecidableEq, Repr

/-- A row of the policy table R120, one for each STEP arm that calls FRAMER.STEP (R60). -/
inductive Policy where
  | sbus | crsf | dsm2 | dsmx | fport
deriving DecidableEq, Repr

/-- The operations of R60. Times `t` are microseconds since RESET (R61); `now` and `tms` are 32-bit millisecond
stamps, `w` a 32-bit width in microseconds. -/
inductive Instr where
  /-- RESET(psel), R90 -/
  | reset (psel : Psel)
  /-- RXPUSH(b), R44 -/
  | rxpush (b : Byte)
  /-- STEP(T), R92 -/
  | step (t : Nat)
  /-- EDGE(T), R166 -/
  | edge (t : Nat)
  /-- STEP.PPM(now), R172 -/
  | stepPpm (now : Stamp)
  /-- STEP.IBUS(), R186 -/
  | stepIbus
  /-- STEP.SBUS(now), R125 -/
  | stepSbus (now : Stamp)
  /-- STEP.CRSF(now), R135 -/
  | stepCrsf (now : Stamp)
  /-- STEP.DSM(now, 10), R145 -/
  | stepDsm2 (now : Stamp)
  /-- STEP.DSM(now, 11), R145 -/
  | stepDsmx (now : Stamp)
  /-- STEP.FPORT(now), R155 -/
  | stepFport (now : Stamp)
  /-- STEP.RSVD(), R93 -/
  | stepRsvd
  /-- EDGE.NOISE(w), R167 -/
  | edgeNoise (w : Stamp)
  /-- EDGE.SYNC.ACC(w, tms), R168 -/
  | edgeSyncAcc (w tms : Stamp)
  /-- EDGE.SYNC.REJ(w), R169 -/
  | edgeSyncRej (w : Stamp)
  /-- EDGE.CHAN(w), R170 -/
  | edgeChan (w : Stamp)
  /-- EDGE.GAP(w), R171 -/
  | edgeGap (w : Stamp)
  /-- FRAMER.STEP(now) with policy X, R121 -/
  | framerStep (x : Policy) (now : Stamp)
  /-- SBUS.BYTE(b, now), R126 -/
  | sbusByte (b : Byte) (now : Stamp)
  /-- SBUS.FRAME(now), R127 -/
  | sbusFrame (now : Stamp)
  /-- CRSF.BYTE(b, now), R136 -/
  | crsfByte (b : Byte) (now : Stamp)
  /-- CRSF.FRAME(now), R137 -/
  | crsfFrame (now : Stamp)
  /-- DSM.BYTE(b, now, bits), R146 -/
  | dsmByte (b : Byte) (now : Stamp) (bits : Width)
  /-- DSM.FRAME(now, bits), R147 -/
  | dsmFrame (now : Stamp) (bits : Width)
  /-- DSM.PAIR(v, bits), R148 -/
  | dsmPair (v : Half) (bits : Width)
  /-- FPORT.BYTE(b, now), R156 -/
  | fportByte (b : Byte) (now : Stamp)
  /-- FPORT.FRAME(now), R157 -/
  | fportFrame (now : Stamp)
  /-- UNPACK11LE(p, k), R67 -/
  | unpack11le (p : Vector Byte 22) (k : BitVec 4)
  /-- SCALE(raw, lo, hi), R100 -/
  | scale (raw lo hi : Nat)
  /-- NORM.S11(raw), R101 -/
  | normS11 (raw : BitVec 11)
  /-- NORM.U11(raw), R102 -/
  | normU11 (raw : BitVec 11)
  /-- NORM.U10(raw), R103 -/
  | normU10 (raw : BitVec 10)
  /-- NORM.PPM(w), R104 -/
  | normPpm (w : Half)
  /-- NORM.IBUS(v), R105 -/
  | normIbus (v : Half)
deriving DecidableEq, Repr

/-- Why the decoder rejects a record, by name. -/
inductive DecodeError where
  /-- the record is empty -/
  | empty
  /-- no operation has this code byte -/
  | unknownCode (code : Byte)
  /-- the record ends before the operands of the operation do -/
  | truncated (mnemonic : String)
  /-- an operand is outside the range its rule gives it -/
  | badOperand (mnemonic : String)
  /-- the record goes on after the last operand -/
  | trailing
deriving DecidableEq, Repr

end Sys2Proof
end

