-- ==== Sys2Proof/WellFormed.lean ====
section
/-! DEFINITION. Which terms of `Instr` are operations of RCDEC, and which of them are events. The operand types of Syntax
already give every range that the rules give: a time has no upper bound (60_exceptions.md R204), an operand of SCALE is any
natural (41_normalizer.md R100), and every other operand is a bit field, a byte or a name. So no term is ill-formed. -/

namespace Sys2Proof

/-- The operands stand in the range their rule gives them: for every operation, by the type of the operand. -/
def Instr.wellFormed : Instr → Bool
  | .reset _ => true
  | .rxpush _ => true
  | .step _ => true
  | .edge _ => true
  | .stepPpm _ => true
  | .stepIbus => true
  | .stepSbus _ => true
  | .stepCrsf _ => true
  | .stepDsm2 _ => true
  | .stepDsmx _ => true
  | .stepFport _ => true
  | .stepRsvd => true
  | .edgeNoise _ => true
  | .edgeSyncAcc _ _ => true
  | .edgeSyncRej _ => true
  | .edgeChan _ => true
  | .edgeGap _ => true
  | .framerStep _ _ => true
  | .sbusByte _ _ => true
  | .sbusFrame _ => true
  | .crsfByte _ _ => true
  | .crsfFrame _ => true
  | .dsmByte _ _ _ => true
  | .dsmFrame _ _ => true
  | .dsmPair _ _ => true
  | .fportByte _ _ => true
  | .fportFrame _ => true
  | .unpack11le _ _ => true
  | .scale _ _ _ => true
  | .normS11 _ => true
  | .normU11 _ => true
  | .normU10 _ => true
  | .normPpm _ => true
  | .normIbus _ => true

/-- The four event kinds that an agent performs as one atomic step (30_encoding.md R60, R61); every other operation
is an arm or a function that an event's rule calls. -/
def Instr.isEvent : Instr → Bool
  | .reset _ => true
  | .rxpush _ => true
  | .step _ => true
  | .edge _ => true
  | .stepPpm _ => false
  | .stepIbus => false
  | .stepSbus _ => false
  | .stepCrsf _ => false
  | .stepDsm2 _ => false
  | .stepDsmx _ => false
  | .stepFport _ => false
  | .stepRsvd => false
  | .edgeNoise _ => false
  | .edgeSyncAcc _ _ => false
  | .edgeSyncRej _ => false
  | .edgeChan _ => false
  | .edgeGap _ => false
  | .framerStep _ _ => false
  | .sbusByte _ _ => false
  | .sbusFrame _ => false
  | .crsfByte _ _ => false
  | .crsfFrame _ => false
  | .dsmByte _ _ _ => false
  | .dsmFrame _ _ => false
  | .dsmPair _ _ => false
  | .fportByte _ _ => false
  | .fportFrame _ => false
  | .unpack11le _ _ => false
  | .scale _ _ _ => false
  | .normS11 _ => false
  | .normU11 _ => false
  | .normU10 _ => false
  | .normPpm _ => false
  | .normIbus _ => false

end Sys2Proof
end

