-- ==== Sys2Proof/Decode.lean ====
section
/-! DEFINITION. The decoders and encoders of RCDEC. The spec has four of them: the event record (30_encoding.md R61,
here a code byte and operands, low byte first: log entry 8), the selector of a STEP arm (R62, the PSEL3 rows), the width
class of an edge (R64, the WCLASS rows) and the shape of a wire frame (R76, the FRAME rows). -/

namespace Sys2Proof

/-! ### Bytes and naturals -/

/-- The `n` low bytes of `v`, low byte first. -/
def leBytes : Nat → Nat → List Byte
  | 0, _ => []
  | n + 1, v => BitVec.ofNat 8 v :: leBytes n (v / 256)

/-- The natural that a list of bytes, low byte first, stands for (R67: `p[0] | p[1] << 8 | ...`). -/
def leNat : List Byte → Nat
  | [] => 0
  | b :: bs => b.toNat + 256 * leNat bs

/-- A natural of any size, at most `n + 1` bytes: seven bits a byte, the low ones first, bit 7 set in every byte but the
last (log entry 8). -/
def natBytesUpTo : Nat → Nat → List Byte
  | 0, v => [BitVec.ofNat 8 v]
  | n + 1, v => if v < 128 then [BitVec.ofNat 8 v] else BitVec.ofNat 8 (128 + v % 128) :: natBytesUpTo n (v / 128)

/-- The bytes of a natural of any size: a time (R61, R204) or an operand of SCALE (R100). -/
def natBytes (v : Nat) : List Byte := natBytesUpTo v.log2 v

/-! ### Selector and width class -/

/-- The decoder that a selector code selects (R62); a code that is none of the seven is the reserved one (R63). -/
def Cfg.proto (c : Cfg) (psel : Psel) : Protocol :=
  if psel = c.pselPpm then .ppm
  else if psel = c.pselIbus then .ibus
  else if psel = c.pselSbus then .sbus
  else if psel = c.pselCrsf then .crsf
  else if psel = c.pselDsm2 then .dsm2
  else if psel = c.pselDsmx then .dsmx
  else if psel = c.pselFport then .fport
  else .rsvd

/-- The STEP arm of a decoder (40_dispatch.md R92, the `case`). -/
def Protocol.arm (p : Protocol) (now : Stamp) : Instr :=
  match p with
  | .ppm => .stepPpm now
  | .ibus => .stepIbus
  | .sbus => .stepSbus now
  | .crsf => .stepCrsf now
  | .dsm2 => .stepDsm2 now
  | .dsmx => .stepDsmx now
  | .fport => .stepFport now
  | .rsvd => .stepRsvd

/-- The four classes of a measured width (R64). -/
inductive WidthClass where
  | noise | sync | chan | gap
deriving DecidableEq, Repr

/-- R64: the class of a width, the tests in the rule's order, the first that holds wins. -/
def Cfg.classify (c : Cfg) (w : Stamp) : WidthClass :=
  if w.toNat < c.ppmNoiseMin ∨ c.ppmAbsMax < w.toNat then .noise
  else if c.ppmSyncMin < w.toNat ∧ w.toNat < c.ppmSyncMax then .sync
  else if c.ppmChMin ≤ w.toNat ∧ w.toNat ≤ c.ppmChMax then .chan
  else .gap

/-- The EDGE arm of a width (R166, R60 c), given the channel index the frame has reached. -/
def Cfg.edgeArm (c : Cfg) (w tms : Stamp) (ppmIdx : BitVec 5) : Instr :=
  match c.classify w with
  | .noise => .edgeNoise w
  | .sync => if 4 ≤ ppmIdx.toNat ∧ ppmIdx.toNat ≤ 16 then .edgeSyncAcc w tms else .edgeSyncRej w
  | .chan => .edgeChan w
  | .gap => .edgeGap w

/-! ### Event records -/

/-- The code byte of an operation. The STEP arms have the 3-bit codes of their PSEL3 rows (R62); the others are the
model's (log entry 8). -/
def Instr.code : Instr → Byte
  | .stepPpm _ => 0x00
  | .stepIbus => 0x01
  | .stepSbus _ => 0x02
  | .stepCrsf _ => 0x03
  | .stepDsm2 _ => 0x04
  | .stepDsmx _ => 0x05
  | .stepFport _ => 0x06
  | .stepRsvd => 0x07
  | .reset _ => 0x10
  | .rxpush _ => 0x11
  | .step _ => 0x12
  | .edge _ => 0x13
  | .edgeNoise _ => 0x20
  | .edgeSyncAcc _ _ => 0x21
  | .edgeSyncRej _ => 0x22
  | .edgeChan _ => 0x23
  | .edgeGap _ => 0x24
  | .framerStep _ _ => 0x30
  | .sbusByte _ _ => 0x31
  | .sbusFrame _ => 0x32
  | .crsfByte _ _ => 0x33
  | .crsfFrame _ => 0x34
  | .dsmByte _ _ _ => 0x35
  | .dsmFrame _ _ => 0x36
  | .dsmPair _ _ => 0x37
  | .fportByte _ _ => 0x38
  | .fportFrame _ => 0x39
  | .unpack11le _ _ => 0x40
  | .scale _ _ _ => 0x41
  | .normS11 _ => 0x42
  | .normU11 _ => 0x43
  | .normU10 _ => 0x44
  | .normPpm _ => 0x45
  | .normIbus _ => 0x46

/-- The byte of a DSM bit width: the width itself (R145: 10 or 11). -/
def Width.byte : Width → Byte
  | .ten => 10
  | .eleven => 11

/-- The byte of a policy: the selector code of the STEP arm that uses it (R62). -/
def Policy.byte : Policy → Byte
  | .sbus => 2
  | .crsf => 3
  | .dsm2 => 4
  | .dsmx => 5
  | .fport => 6

/-- The operand bytes of a record: each operand in turn, low byte first. -/
def Instr.operandBytes : Instr → List Byte
  | .reset psel => leBytes 1 psel.toNat
  | .rxpush b => [b]
  | .step t => natBytes t
  | .edge t => natBytes t
  | .stepPpm now => leBytes 4 now.toNat
  | .stepIbus => []
  | .stepSbus now => leBytes 4 now.toNat
  | .stepCrsf now => leBytes 4 now.toNat
  | .stepDsm2 now => leBytes 4 now.toNat
  | .stepDsmx now => leBytes 4 now.toNat
  | .stepFport now => leBytes 4 now.toNat
  | .stepRsvd => []
  | .edgeNoise w => leBytes 4 w.toNat
  | .edgeSyncAcc w tms => leBytes 4 w.toNat ++ leBytes 4 tms.toNat
  | .edgeSyncRej w => leBytes 4 w.toNat
  | .edgeChan w => leBytes 4 w.toNat
  | .edgeGap w => leBytes 4 w.toNat
  | .framerStep x now => x.byte :: leBytes 4 now.toNat
  | .sbusByte b now => b :: leBytes 4 now.toNat
  | .sbusFrame now => leBytes 4 now.toNat
  | .crsfByte b now => b :: leBytes 4 now.toNat
  | .crsfFrame now => leBytes 4 now.toNat
  | .dsmByte b now bits => b :: (leBytes 4 now.toNat ++ [bits.byte])
  | .dsmFrame now bits => leBytes 4 now.toNat ++ [bits.byte]
  | .dsmPair v bits => leBytes 2 v.toNat ++ [bits.byte]
  | .fportByte b now => b :: leBytes 4 now.toNat
  | .fportFrame now => leBytes 4 now.toNat
  | .unpack11le p k => p.toList ++ leBytes 1 k.toNat
  | .scale raw lo hi => natBytes raw ++ (natBytes lo ++ natBytes hi)
  | .normS11 raw => leBytes 2 raw.toNat
  | .normU11 raw => leBytes 2 raw.toNat
  | .normU10 raw => leBytes 2 raw.toNat
  | .normPpm w => leBytes 2 w.toNat
  | .normIbus v => leBytes 2 v.toNat

/-- The record of an operation: its code byte, then its operands. -/
def encode (i : Instr) : List Byte := i.code :: i.operandBytes

/-- Take an `n`-byte operand of the operation `m` off the front of a record. -/
def takeField (m : String) (n : Nat) (bs : List Byte) : Except DecodeError (Nat × List Byte) :=
  if n ≤ bs.length then .ok (leNat (bs.take n), bs.drop n) else .error (.truncated m)

/-- Take an operand that must lie below `bound`. -/
def takeBounded (m : String) (n bound : Nat) (bs : List Byte) : Except DecodeError (Nat × List Byte) :=
  match takeField m n bs with
  | .error e => .error e
  | .ok (v, r) => if v < bound then .ok (v, r) else .error (.badOperand m)

/-- Take a natural of any size. A last byte of 0 behind another byte is refused: each natural has one form. -/
def takeNat (m : String) : List Byte → Except DecodeError (Nat × List Byte)
  | [] => .error (.truncated m)
  | b :: bs =>
    if b.toNat < 128 then .ok (b.toNat, bs)
    else
      match takeNat m bs with
      | .error e => .error e
      | .ok (v, r) => if v = 0 then .error (.badOperand m) else .ok (b.toNat - 128 + 128 * v, r)

/-- Take a 32-bit stamp. -/
def takeStamp (m : String) (bs : List Byte) : Except DecodeError (Stamp × List Byte) :=
  match takeField m 4 bs with
  | .error e => .error e
  | .ok (v, r) => .ok (BitVec.ofNat 32 v, r)

/-- Take one byte. -/
def takeByte (m : String) (bs : List Byte) : Except DecodeError (Byte × List Byte) :=
  match bs with
  | [] => .error (.truncated m)
  | b :: r => .ok (b, r)

/-- Take a DSM bit width (R145: 10 or 11). -/
def takeWidth (m : String) (bs : List Byte) : Except DecodeError (Width × List Byte) :=
  match takeByte m bs with
  | .error e => .error e
  | .ok (b, r) =>
    if b = 10 then .ok (.ten, r) else if b = 11 then .ok (.eleven, r) else .error (.badOperand m)

/-- Take a policy, named by its selector code (R62). -/
def takePolicy (m : String) (bs : List Byte) : Except DecodeError (Policy × List Byte) :=
  match takeByte m bs with
  | .error e => .error e
  | .ok (b, r) =>
    if b = 2 then .ok (.sbus, r)
    else if b = 3 then .ok (.crsf, r)
    else if b = 4 then .ok (.dsm2, r)
    else if b = 5 then .ok (.dsmx, r)
    else if b = 6 then .ok (.fport, r)
    else .error (.badOperand m)

/-- Take the 22 payload bytes of UNPACK11LE (R67). -/
def takePayload (m : String) (bs : List Byte) : Except DecodeError (Vector Byte 22 × List Byte) :=
  if h : (bs.take 22).length = 22 then .ok (⟨(bs.take 22).toArray, by simpa using h⟩, bs.drop 22)
  else .error (.truncated m)

/-- A record whose only operand is a stamp. -/
def stampRecord (m : String) (mk : Stamp → Instr) (bs : List Byte) : Except DecodeError (Instr × List Byte) :=
  match takeStamp m bs with
  | .error e => .error e
  | .ok (now, r) => .ok (mk now, r)

/-- A record whose operands are a byte and a stamp. -/
def byteStampRecord (m : String) (mk : Byte → Stamp → Instr) (bs : List Byte) :
    Except DecodeError (Instr × List Byte) :=
  match takeByte m bs with
  | .error e => .error e
  | .ok (b, r) => stampRecord m (mk b) r

/-- A record whose only operand is a natural of `n` bytes below `bound`. -/
def boundedRecord (m : String) (n bound : Nat) (mk : Nat → Instr) (bs : List Byte) :
    Except DecodeError (Instr × List Byte) :=
  match takeBounded m n bound bs with
  | .error e => .error e
  | .ok (v, r) => .ok (mk v, r)

/-- A record whose only operand is a time. -/
def timeRecord (m : String) (mk : Nat → Instr) (bs : List Byte) : Except DecodeError (Instr × List Byte) :=
  match takeNat m bs with
  | .error e => .error e
  | .ok (t, r) => .ok (mk t, r)

/-- The operands of the operation with code byte `code`, taken off `bs`. -/
def decodeOperands (code : Byte) (bs : List Byte) : Except DecodeError (Instr × List Byte) :=
  match code.toNat with
  | 0x00 => stampRecord "STEP.PPM" .stepPpm bs
  | 0x01 => .ok (.stepIbus, bs)
  | 0x02 => stampRecord "STEP.SBUS" .stepSbus bs
  | 0x03 => stampRecord "STEP.CRSF" .stepCrsf bs
  | 0x04 => stampRecord "STEP.DSM2" .stepDsm2 bs
  | 0x05 => stampRecord "STEP.DSMX" .stepDsmx bs
  | 0x06 => stampRecord "STEP.FPORT" .stepFport bs
  | 0x07 => .ok (.stepRsvd, bs)
  | 0x10 => boundedRecord "RESET" 1 8 (fun v => .reset (BitVec.ofNat 3 v)) bs
  | 0x11 =>
    match takeByte "RXPUSH" bs with
    | .error e => .error e
    | .ok (b, r) => .ok (.rxpush b, r)
  | 0x12 => timeRecord "STEP" .step bs
  | 0x13 => timeRecord "EDGE" .edge bs
  | 0x20 => stampRecord "EDGE.NOISE" .edgeNoise bs
  | 0x21 =>
    match takeStamp "EDGE.SYNC.ACC" bs with
    | .error e => .error e
    | .ok (w, r) => stampRecord "EDGE.SYNC.ACC" (.edgeSyncAcc w) r
  | 0x22 => stampRecord "EDGE.SYNC.REJ" .edgeSyncRej bs
  | 0x23 => stampRecord "EDGE.CHAN" .edgeChan bs
  | 0x24 => stampRecord "EDGE.GAP" .edgeGap bs
  | 0x30 =>
    match takePolicy "FRAMER.STEP" bs with
    | .error e => .error e
    | .ok (x, r) => stampRecord "FRAMER.STEP" (.framerStep x) r
  | 0x31 => byteStampRecord "SBUS.BYTE" .sbusByte bs
  | 0x32 => stampRecord "SBUS.FRAME" .sbusFrame bs
  | 0x33 => byteStampRecord "CRSF.BYTE" .crsfByte bs
  | 0x34 => stampRecord "CRSF.FRAME" .crsfFrame bs
  | 0x35 =>
    match takeByte "DSM.BYTE" bs with
    | .error e => .error e
    | .ok (b, r) =>
      match takeStamp "DSM.BYTE" r with
      | .error e => .error e
      | .ok (now, r) =>
        match takeWidth "DSM.BYTE" r with
        | .error e => .error e
        | .ok (bits, r) => .ok (.dsmByte b now bits, r)
  | 0x36 =>
    match takeStamp "DSM.FRAME" bs with
    | .error e => .error e
    | .ok (now, r) =>
      match takeWidth "DSM.FRAME" r with
      | .error e => .error e
      | .ok (bits, r) => .ok (.dsmFrame now bits, r)
  | 0x37 =>
    match takeField "DSM.PAIR" 2 bs with
    | .error e => .error e
    | .ok (v, r) =>
      match takeWidth "DSM.PAIR" r with
      | .error e => .error e
      | .ok (bits, r) => .ok (.dsmPair (BitVec.ofNat 16 v) bits, r)
  | 0x38 => byteStampRecord "FPORT.BYTE" .fportByte bs
  | 0x39 => stampRecord "FPORT.FRAME" .fportFrame bs
  | 0x40 =>
    match takePayload "UNPACK11LE" bs with
    | .error e => .error e
    | .ok (p, r) => boundedRecord "UNPACK11LE" 1 16 (fun k => .unpack11le p (BitVec.ofNat 4 k)) r
  | 0x41 =>
    match takeNat "SCALE" bs with
    | .error e => .error e
    | .ok (raw, r) =>
      match takeNat "SCALE" r with
      | .error e => .error e
      | .ok (lo, r) =>
        match takeNat "SCALE" r with
        | .error e => .error e
        | .ok (hi, r) => .ok (.scale raw lo hi, r)
  | 0x42 => boundedRecord "NORM.S11" 2 2048 (fun v => .normS11 (BitVec.ofNat 11 v)) bs
  | 0x43 => boundedRecord "NORM.U11" 2 2048 (fun v => .normU11 (BitVec.ofNat 11 v)) bs
  | 0x44 => boundedRecord "NORM.U10" 2 1024 (fun v => .normU10 (BitVec.ofNat 10 v)) bs
  | 0x45 => boundedRecord "NORM.PPM" 2 65536 (fun v => .normPpm (BitVec.ofNat 16 v)) bs
  | 0x46 => boundedRecord "NORM.IBUS" 2 65536 (fun v => .normIbus (BitVec.ofNat 16 v)) bs
  | _ => .error (.unknownCode code)

/-- The operation at the front of a list of bytes, and the bytes after it. -/
def decode : List Byte → Except DecodeError (Instr × List Byte)
  | [] => .error .empty
  | code :: bs => decodeOperands code bs

/-- The operation that a whole record is: nothing may follow its last operand. -/
def decodeRecord (record : List Byte) : Except DecodeError Instr :=
  match decode record with
  | .error e => .error e
  | .ok (i, []) => .ok i
  | .ok (_, _ :: _) => .error .trailing

/-! ### Wire frames -/

/-- A FRAME row of opcode_table.json: byte by byte, `(f & mask) = match` (R76). -/
structure FramePattern where
  matched : List Byte
  mask : List Byte
deriving DecidableEq, Repr

/-- R76: a frame has the pattern's shape. -/
def FramePattern.fits (p : FramePattern) (f : List Byte) : Bool :=
  (List.zipWith (· &&& ·) f p.mask == p.matched) && (f.length == p.mask.length)

/-- FRAME_SBUS: 25 bytes, byte 0 the header 0x0F (R65). -/
def sbusPattern : FramePattern where
  matched := 0x0F#8 :: List.replicate 24 0
  mask := 0xFF#8 :: List.replicate 24 0

/-- FRAME_CRSF_RC: 26 bytes, sync, length 24 and the RC-channels type (R68). -/
def crsfPattern (c : Cfg) : FramePattern where
  matched := [c.crsfSync, 24#8, c.crsfTypeRc] ++ List.replicate 23 0
  mask := List.replicate 3 0xFF#8 ++ List.replicate 23 0

/-- FRAME_DSM: any 16 bytes (R70). -/
def dsmPattern : FramePattern where
  matched := List.replicate 16 0
  mask := List.replicate 16 0

/-- FRAME_FPORT_RC: 29 bytes, header, length byte, type, and the header value again at the end (R72). -/
def fportPattern (c : Cfg) : FramePattern where
  matched := [c.fportHdr, c.fportLenByte, c.fportTypeRc] ++ (List.replicate 25 0 ++ [c.fportHdr])
  mask := List.replicate 3 0xFF#8 ++ (List.replicate 25 0 ++ [0xFF#8])

/-- The FRAME operation whose format a wire frame has (R76), with the REFCFG byte values of the table. The frame holds
no time and no bit width: `now` is 0 and the width the first of R145. -/
def decodeFrame (f : List Byte) : Option Instr :=
  if sbusPattern.fits f then some (.sbusFrame 0)
  else if (crsfPattern refcfg).fits f then some (.crsfFrame 0)
  else if (fportPattern refcfg).fits f then some (.fportFrame 0)
  else if dsmPattern.fits f then some (.dsmFrame 0 .ten)
  else none

/-! ### The opcode table's words -/

/-- The bytes of a table word: bit 0 is bit 0 of the first byte. -/
def tableBytes (nbits w : Nat) : List Byte := leBytes ((nbits + 7) / 8) w

/-- The zero bits above a table word, up to the longest record. -/
def tablePadding : List Byte := List.replicate 32 0

/-- The operation the decoders read from a word of opcode_table.json: a FRAME row's word is a wire frame (16 bytes and
more), any other row's word the front of a record. -/
def decodeTableWord (nbits w : Nat) : Option Instr :=
  if nbits = 0 then none
  else if 128 ≤ nbits then decodeFrame (tableBytes nbits w)
  else
    match decode (tableBytes nbits w ++ tablePadding) with
    | .error _ => none
    | .ok (i, _) => some i

end Sys2Proof
end

