-- ==== Sys2Proof/Machine/State.lean ====
section
/-! DEFINITION. The state of RCDEC (10_state.md R10 to R27, R33), the fields the model adds (each in the assumption
log), the reasons a step can stop, and the state after reset. -/

namespace Sys2Proof.Machine

/-- The label of an error, with its info (60_exceptions.md R191). -/
inductive Label where
  /-- bad sync byte: the byte -/
  | eSync (b : Byte)
  /-- illegal length: the byte -/
  | eLen (b : Byte)
  /-- unexpected terminator: the byte -/
  | eTerm (b : Byte)
  /-- inter-byte gap exceeded: the old `idx` -/
  | eGap (idx : BitVec 7)
  /-- no valid frame within the overall timeout -/
  | eLos
  /-- invalid footer: the byte -/
  | eFooter (b : Byte)
  /-- rejected flag bits: the flag byte -/
  | eFlags (b : Byte)
  /-- checksum mismatch -/
  | eXor
  /-- frame of another type: the type byte, and under CRSF the length byte (R137; R157 gives none) -/
  | eType (type : Byte) (len : Option Byte)
  /-- pulse count out of range: `ppm_idx`, at a boundary (R169) and at a poll (R172) -/
  | eCount (n : BitVec 5)
  /-- width of class NOISE or GAP: the width -/
  | eNoise (w : Stamp)
deriving DecidableEq, Repr

/-- What a byte or frame operation returns (the rows `x.BYTE`, `x.FRAME` of opcode_table.json). -/
inductive Verdict where
  | none | accept | reject
deriving DecidableEq, Repr

/-- The result an operation returns; an output, not state of RCDEC (R29 b; log entry 6). -/
inductive Output where
  /-- nothing has been returned since reset -/
  | none
  /-- `step_ok` of a STEP -/
  | stepOk (ok : Bool)
  /-- the verdict of a byte or frame operation -/
  | verdict (v : Verdict)
  /-- the number a pure function returns -/
  | value (n : Nat)
deriving DecidableEq, Repr

/-- The indexed arrays of RCDEC (R32). -/
inductive Space where
  | ch | buf | pw | lat
deriving DecidableEq, Repr

/-- The state. The first eighteen fields are R10 to R27 and the time of R33; the rest is the model's. -/
@[ext]
structure State where
  /-- `CH[0..15]`, the Channel Buffer (R11) -/
  ch : Vector Half 16
  /-- `PSEL_L`, the latched selector (R12) -/
  psel : Psel
  /-- `buf[0..63]`, the frame buffer (R13) -/
  buf : Vector Byte 64
  /-- `idx`, the fill index; 0 is sync search (R14) -/
  idx : BitVec 7
  /-- `exp_len`, the expected frame length (R15) -/
  expLen : BitVec 7
  /-- `last_byte_ms` (R16) -/
  lastByteMs : Stamp
  /-- `last_frame_ms` (R17) -/
  lastFrameMs : Stamp
  /-- `last_edge_us` (R18) -/
  lastEdgeUs : Stamp
  /-- `pw[0..15]`, the capture bank (R19) -/
  pw : Vector Half 16
  /-- `ppm_idx`, the channel index (R20) -/
  ppmIdx : BitVec 5
  /-- `lat[0..15]`, the latch bank (R21) -/
  lat : Vector Half 16
  /-- `lat_n`, the latched count (R22) -/
  latN : BitVec 5
  /-- `fc`, frame complete (R23) -/
  fc : Bool
  /-- `missed`, the missed-frame counter (R24) -/
  missed : BitVec 8
  /-- `ppm_last_frame_ms` (R25) -/
  ppmLastFrameMs : Stamp
  /-- `ibus_inited` (R26) -/
  ibusInited : Bool
  /-- `rxq`, the RX queue, oldest byte first (R27, R44) -/
  rxq : List Byte
  /-- the real time T, in microseconds since RESET, of the latest EDGE or STEP (R33; log entry 5) -/
  time : Nat
  /-- the configuration record, never written (R7, R36; log entry 1) -/
  cfg : Cfg
  /-- the answers the IBUS collaborator will give, oldest first (R185; log entry 2) -/
  ibusAns : List IbusAnswer
  /-- how many answers were taken from the free value (log entry 2) -/
  ibusCalls : Nat
  /-- the event records that have not happened yet, oldest first (R61; log entry 4) -/
  inbox : List (List Byte)
  /-- the result last returned (R29 b; log entry 6) -/
  out : Output
  /-- the error labels raised, oldest first (R190; log entry 7) -/
  log : List Label
deriving DecidableEq, Repr

/-- Why a step stops with a fault. -/
inductive Fault where
  /-- An index past the end of an array. Raised by the byte operations (`buf`), CRSF.FRAME (`buf`), EDGE.SYNC.ACC
  (`pw`), STEP.PPM (`lat`) and STEP.IBUS (`CH`). No state that meets Safety's invariant with a legal Cfg reaches it
  (R32: "No index is ever computed out of range"; U8). Safe: the model stops where the spec says nothing. -/
  | indexRange (space : Space) (index : Nat)
deriving DecidableEq, Repr

/-- Why a step is refused. -/
inductive Refusal where
  /-- The operation has no meaning yet. Raised by no arm of `exec`. Safe. -/
  | notModelled (mnemonic : String)
  /-- The record at the head of `inbox` is the encoding of no operation. Raised by `step` only; an event record (R61)
  always decodes. Safe: the model stops. -/
  | undecodable (e : DecodeError)
deriving DecidableEq, Repr

/-- 10_state.md R33: the state after `RESET(psel)`, for a configuration; the model's own fields empty. -/
def State.resetWith (cfg : Cfg) (psel : Psel) : State where
  ch := Vector.replicate 16 1500
  psel := psel
  buf := Vector.replicate 64 0
  idx := 0
  expLen := 0
  lastByteMs := 0
  lastFrameMs := 0
  lastEdgeUs := 0
  pw := Vector.replicate 16 0
  ppmIdx := 0
  lat := Vector.replicate 16 0
  latN := 0
  fc := false
  missed := 0
  ppmLastFrameMs := 0
  ibusInited := decide (psel = cfg.pselIbus)
  rxq := []
  time := 0
  cfg := cfg
  ibusAns := []
  ibusCalls := 0
  inbox := []
  out := .none
  log := []

/-- The machine right after reset: R33 with REFCFG (log entry 1) and the selector code 0, PPM (log entry 3). -/
def State.reset : State := State.resetWith refcfg 0

end Sys2Proof.Machine
end

