-- ==== Sys2Proof/Machine/Ops.lean ====
section
/-! DEFINITION. The named operations over the state: time, the event log (what an error does: 60_exceptions.md R190),
entry to the edge handler (R198), the framing primitives (42_framing.md R112, R115) and the bank copies. -/

namespace Sys2Proof.Machine

/-! ### Time (00_scope.md R250) -/

/-- `t_us(T)`, the 32-bit microsecond counter at time T. -/
def tUs (t : Nat) : Stamp := BitVec.ofNat 32 t

/-- `t_ms(T)`, the 32-bit millisecond counter at time T. -/
def tMs (t : Nat) : Stamp := BitVec.ofNat 32 (t / 1000)

/-- `elapsed(now, then)`: the difference of two stamps modulo 2^32. -/
abbrev elapsed (now since : Stamp) : Nat := (now - since).toNat

/-! ### Arithmetic -/

/-- `clamp(v, lo, hi)` (R250). -/
def clamp (v lo hi : Nat) : Nat := if v < lo then lo else if hi < v then hi else v

/-- `XOR(...)` of a range of bytes: bytewise exclusive or, 0 for the empty range (R250). -/
def xorAll (bs : List Byte) : Byte := bs.foldl (· ^^^ ·) 0

/-! ### Updates of the state, one a field or a group that a rule writes together -/

/-- `raise <Error>(info)`: append the label to the event log; no state of RCDEC changes and no control is transferred
(R190, R250). This is all that an error does by itself. -/
def State.raise (s : State) (l : Label) : State := { s with log := s.log ++ [l] }

/-- Return a result. -/
def State.withOut (s : State) (o : Output) : State := { s with out := o }

/-- Set the fill index. -/
def State.withIdx (s : State) (i : BitVec 7) : State := { s with idx := i }

/-- Set the expected frame length. -/
def State.withExpLen (s : State) (n : BitVec 7) : State := { s with expLen := n }

/-- `last_byte_ms <- now` (R112). -/
def State.withByteStamp (s : State) (now : Stamp) : State := { s with lastByteMs := now }

/-- `last_frame_ms <- now` (R116). -/
def State.withFrameStamp (s : State) (now : Stamp) : State := { s with lastFrameMs := now }

/-- Write the Channel Buffer. -/
def State.withCh (s : State) (ch : Vector Half 16) : State := { s with ch := ch }

/-- Replace the RX queue. -/
def State.withRxq (s : State) (q : List Byte) : State := { s with rxq := q }

/-- The real time of the event at hand (R250). -/
def State.withTime (s : State) (t : Nat) : State := { s with time := t }

/-- `last_edge_us <- t_us(T)` (R166). -/
def State.withEdgeStamp (s : State) (u : Stamp) : State := { s with lastEdgeUs := u }

/-- `buf[i] <- b; idx <- i + 1` (R115) with `i` the fill index, in range. -/
def State.withByte (s : State) (b : Byte) (h : s.idx.toNat < 64) : State :=
  { s with buf := s.buf.set s.idx.toNat b h, idx := s.idx + 1 }

/-- The events that have not happened yet. -/
def State.withInbox (s : State) (rs : List (List Byte)) : State := { s with inbox := rs }

/-- `buf[a..b]`, both ends included. -/
def State.slice (s : State) (a b : Nat) : List Byte := (s.buf.toList.drop a).take (b + 1 - a)

/-! ### The interrupt -/

/-- Entry to the edge handler at time T (60_exceptions.md R198, 47_ppm.md R166): nothing is saved and no mode changes;
the width since the previous edge is measured modulo 2^32 and `last_edge_us` takes the edge's time, whatever the class
of the width. Answers the width and the state the handler's arm runs in. The handler returns by finishing (R199): there
is no return operation. -/
def enterEdgeHandler (t : Nat) (s : State) : Stamp × State :=
  (tUs t - s.lastEdgeUs, s.withEdgeStamp (tUs t))

/-! ### Framing primitives -/

/-- R112, for every popped byte before anything else: a partial frame is dropped when more than `timeout` milliseconds
have passed since the previous byte, and `last_byte_ms` takes `now`. -/
def gapCheck (timeout : Nat) (now : Stamp) (s : State) : State :=
  if s.idx ≠ 0 ∧ timeout < elapsed now s.lastByteMs then
    ((s.raise (.eGap s.idx)).withIdx 0).withByteStamp now
  else s.withByteStamp now

/-- R115: `buf[idx] <- b; idx <- idx + 1`. An `idx` past the buffer is a fault (R32; log entry 9). -/
def storeByte (b : Byte) (s : State) : Except Fault State :=
  if h : s.idx.toNat < 64 then .ok (s.withByte b h) else .error (.indexRange .buf s.idx.toNat)

/-- The loop of a byte-stream STEP (R111, R119, R121): pop bytes oldest first and give each to `byteOp`, until one is
accepted or the queue is empty. Answers whether a frame was accepted. -/
def drain (byteOp : Byte → State → Except Fault (State × Verdict)) :
    List Byte → State → Except Fault (State × Bool)
  | [], s => .ok (s.withRxq [], false)
  | b :: q, s =>
    match byteOp b (s.withRxq q) with
    | .error f => .error f
    | .ok (s', v) => if v = .accept then .ok (s', true) else drain byteOp q s'

/-- A byte-stream STEP (R121): drain the queue; when no frame was accepted and the overall timeout has passed, raise
E_LOS (R118); return `step_ok`. -/
def byteStreamStep (byteOp : Byte → State → Except Fault (State × Verdict)) (frameTo : Nat) (now : Stamp)
    (s : State) : Except Fault State :=
  match drain byteOp s.rxq s with
  | .error f => .error f
  | .ok (s', true) => .ok (s'.withOut (.stepOk true))
  | .ok (s', false) =>
    .ok ((if frameTo < elapsed now s'.lastFrameMs then s'.raise .eLos else s').withOut (.stepOk false))

/-! ### Bank copies -/

/-- Write entries 0 to n-1 of a bank of sixteen from `f`; the others keep their value. -/
def copyFirst (n : Nat) (f : Fin 16 → Half) (old : Vector Half 16) : Vector Half 16 :=
  Vector.ofFn fun i => if i.val < n then f i else old[i]

/-! ### Outcomes -/

/-- The outcome of an operation that may index past an array. -/
def ran (r : Except Fault State) : Host.Outcome State Fault Refusal :=
  match r with
  | .error f => .fault f
  | .ok s => .next s

/-- The outcome of an operation that returns a verdict: the verdict goes to `out`. -/
def ranVerdict (r : Except Fault (State × Verdict)) : Host.Outcome State Fault Refusal :=
  match r with
  | .error f => .fault f
  | .ok (s, v) => .next (s.withOut (.verdict v))

end Sys2Proof.Machine
end

