-- ==== Sys2Proof/Machine/Operands.lean ====
section
/-! DEFINITION. How operands are assembled from bytes: the 11-bit fields of SBUS, CRSF and FPORT (30_encoding.md R67),
the big-endian DSM slots and their fields (20_memory.md R41, 30_encoding.md R71), and the policy table's values
(42_framing.md R120). -/

namespace Sys2Proof.Machine

/-- The 22 payload bytes `buf[off..off+21]` (R65: off = 1; R68, R72: off = 3). -/
def payloadAt (buf : Vector Byte 64) (off : Fin 43) : Vector Byte 22 :=
  Vector.ofFn fun i => buf[off.val + i.val]

/-- UNPACK11LE(p, k), R67: bits 11k+10 down to 11k of the payload read as one 176-bit number, first byte lowest. -/
def unpack11le (p : Vector Byte 22) (k : BitVec 4) : BitVec 11 :=
  BitVec.ofNat 11 (leNat p.toList >>> (11 * k.toNat))

/-- Slot p of a DSM frame, `(buf[2p] << 8) | buf[2p+1]`: big-endian (R41, R70). -/
def dsmSlot (buf : Vector Byte 64) (p : Fin 8) : Half :=
  buf[2 * p.val] ++ buf[2 * p.val + 1]

/-- The channel index of a slot value (R71): `v[14:11]` in 11-bit mode, `v[13:10]` in 10-bit mode. -/
def dsmChannel (v : Half) : Width → BitVec 4
  | .eleven => v.extractLsb' 11 4
  | .ten => v.extractLsb' 10 4

/-- The raw value of a slot in 11-bit mode (R71): `v[10:0]`. -/
def dsmRaw11 (v : Half) : BitVec 11 := v.extractLsb' 0 11

/-- The raw value of a slot in 10-bit mode (R71): `v[9:0]`. -/
def dsmRaw10 (v : Half) : BitVec 10 := v.extractLsb' 0 10

/-! ### The policy table (R120) -/

/-- X_BYTE_TO -/
def policyByteTo (c : Cfg) : Policy → Nat
  | .sbus => c.sbusByteTo
  | .crsf => c.crsfByteTo
  | .dsm2 => c.dsmByteTo
  | .dsmx => c.dsmByteTo
  | .fport => c.fportByteTo

/-- X_FRAME_TO -/
def policyFrameTo (c : Cfg) : Policy → Nat
  | .sbus => c.sbusFrameTo
  | .crsf => c.crsfFrameTo
  | .dsm2 => c.dsmFrameTo
  | .dsmx => c.dsmFrameTo
  | .fport => c.fportFrameTo

/-- The header at idx 0; DSM has none. -/
def policyHeader (c : Cfg) : Policy → Option Byte
  | .sbus => some 0x0F
  | .crsf => some c.crsfSync
  | .dsm2 => none
  | .dsmx => none
  | .fport => some c.fportHdr

/-- The length rule at idx 1: whether a byte is a legal length byte, where the policy has one. -/
def policyLengthOk (c : Cfg) : Policy → Option (Byte → Bool)
  | .sbus => none
  | .crsf => some fun b => decide (c.crsfLenMin ≤ b.toNat ∧ b.toNat ≤ c.crsfLenMax)
  | .dsm2 => none
  | .dsmx => none
  | .fport => some fun b => decide (b = c.fportLenByte)

/-- `exp_len` for an accepted length byte: CRSF `b + 2`, FPORT 29. -/
def policyLengthOf (x : Policy) (b : Byte) : BitVec 7 :=
  match x with
  | .crsf => BitVec.ofNat 7 (b.toNat + 2)
  | .sbus => 25
  | .dsm2 => 16
  | .dsmx => 16
  | .fport => 29

/-- The frame length in force (R115, R120): CRSF's is `exp_len`. -/
def policyFrameLen (s : State) : Policy → Nat
  | .sbus => 25
  | .crsf => s.expLen.toNat
  | .dsm2 => 16
  | .dsmx => 16
  | .fport => 29

end Sys2Proof.Machine
end

