-- ==== Sys2Proof/Machine/Flags.lean ====
section
/-! DEFINITION. The flags and one-bit conditions of 10_state.md R29: the two SBUS flag-byte conditions, the derived
loss-of-signal predicates and whether the edge interrupt is enabled. `fc` is a field of State, `step_ok` an output. RCDEC
has no arithmetic condition codes. -/

namespace Sys2Proof.Machine

/-- "frame lost" or "failsafe active" is set in the SBUS flag byte (30_encoding.md R66, 43_sbus.md R127). -/
def sbusFlagged (c : Cfg) (flags : Byte) : Bool := (flags &&& (c.sbusLostMask ||| c.sbusFsMask)) != 0

/-- `los_x(now)`: loss of signal under a byte-stream policy (42_framing.md R118), strict. -/
def losFrame (x : Policy) (now : Stamp) (s : State) : Bool :=
  decide (policyFrameTo s.cfg x < elapsed now s.lastFrameMs)

/-- `los` under PPM: the third test of STEP.PPM (47_ppm.md R172), strict. -/
def losPpm (now : Stamp) (s : State) : Bool :=
  decide (s.cfg.ppmTimeoutMs < elapsed now s.ppmLastFrameMs)

/-- Too many consecutive frames were rejected: the second test of STEP.PPM (R172), strict. -/
def tooManyMissed (s : State) : Bool := decide (s.cfg.ppmMaxMissed < s.missed.toNat)

/-- The edge interrupt is enabled: only under PPM (60_exceptions.md R196, 70_reset_and_hazards.md R221). -/
def edgeEnabled (s : State) : Bool := decide (s.cfg.proto s.psel = .ppm)

end Sys2Proof.Machine
end

