-- ==== Sys2Proof/Machine/Normalizer.lean ====
section
/-! DEFINITION. NORM, the channel normaliser (41_normalizer.md R100 to R105), and the meanings of its operations and of
UNPACK11LE: pure functions whose result goes to `out`. -/

namespace Sys2Proof.Machine

/-- R100: SCALE(raw, lo, hi), the clamped linear map of [lo, hi] onto [1000, 2000], to nearest; for `lo < hi` as the
rule has it, free otherwise (log entry 10). -/
def scale (raw lo hi : Nat) : Nat :=
  if lo < hi then 1000 + ((clamp raw lo hi - lo) * 2000 + (hi - lo)) / (2 * (hi - lo))
  else Config.scaleUnstated raw lo hi

/-- R101 -/
def normS11 (raw : BitVec 11) : Half := BitVec.ofNat 16 (scale raw.toNat 172 1811)

/-- R102 -/
def normU11 (raw : BitVec 11) : Half := BitVec.ofNat 16 (scale raw.toNat 0 2047)

/-- R103 -/
def normU10 (raw : BitVec 10) : Half := BitVec.ofNat 16 (scale raw.toNat 0 1023)

/-- R104 -/
def normPpm (w : Half) : Half := BitVec.ofNat 16 (clamp w.toNat 1000 2000)

/-- R105 -/
def normIbus (v : Half) : Half := BitVec.ofNat 16 (clamp v.toNat 1000 2000)

/-- The sixteen channels of a payload (43_sbus.md R128, R127): `k -> NORM.S11(UNPACK11LE(p, k))`. -/
def unpackChannels (p : Vector Byte 22) : Vector Half 16 :=
  Vector.ofFn fun k => normS11 (unpack11le p (BitVec.ofFin k))

/-- UNPACK11LE, R67. -/
def execUnpack11le (p : Vector Byte 22) (k : BitVec 4) (s : State) : Host.Outcome State Fault Refusal :=
  .next (s.withOut (.value (unpack11le p k).toNat))

/-- SCALE, R100. -/
def execScale (raw lo hi : Nat) (s : State) : Host.Outcome State Fault Refusal :=
  .next (s.withOut (.value (scale raw lo hi)))

/-- NORM.S11, R101. -/
def execNormS11 (raw : BitVec 11) (s : State) : Host.Outcome State Fault Refusal :=
  .next (s.withOut (.value (normS11 raw).toNat))

/-- NORM.U11, R102. -/
def execNormU11 (raw : BitVec 11) (s : State) : Host.Outcome State Fault Refusal :=
  .next (s.withOut (.value (normU11 raw).toNat))

/-- NORM.U10, R103. -/
def execNormU10 (raw : BitVec 10) (s : State) : Host.Outcome State Fault Refusal :=
  .next (s.withOut (.value (normU10 raw).toNat))

/-- NORM.PPM, R104. -/
def execNormPpm (w : Half) (s : State) : Host.Outcome State Fault Refusal :=
  .next (s.withOut (.value (normPpm w).toNat))

/-- NORM.IBUS, R105. -/
def execNormIbus (v : Half) (s : State) : Host.Outcome State Fault Refusal :=
  .next (s.withOut (.value (normIbus v).toNat))

end Sys2Proof.Machine
end

