-- ==== Sys2Proof/Machine/Crsf.lean ====
section
/-! DEFINITION. The CRSF decoder (44_crsf.md R135 to R138). -/

namespace Sys2Proof.Machine

/-- R137: CRSF.FRAME(now), with `L = buf[1]`: checksum before type and length (R197). The checksum is the plain
exclusive or of `buf[1..L]` (R138). `buf[L+1]` past the buffer is a fault (R32; log entry 9). -/
def crsfFrame (now : Stamp) (s : State) : Except Fault (State × Verdict) :=
  if h : s.buf[1].toNat + 1 < 64 then
    if xorAll (s.slice 1 s.buf[1].toNat) ≠ s.buf[s.buf[1].toNat + 1] then .ok (s.raise .eXor, .reject)
    else if s.buf[2] ≠ s.cfg.crsfTypeRc ∨ s.buf[1] ≠ 24 then
      .ok (s.raise (.eType s.buf[2] (some s.buf[1])), .reject)
    else .ok ((s.withCh (unpackChannels (payloadAt s.buf 3))).withFrameStamp now, .accept)
  else .error (.indexRange .buf (s.buf[1].toNat + 1))

/-- R136: CRSF.BYTE(b, now). -/
def crsfByte (b : Byte) (now : Stamp) (s : State) : Except Fault (State × Verdict) :=
  let s := gapCheck s.cfg.crsfByteTo now s
  if s.idx = 0 then
    if b ≠ s.cfg.crsfSync then .ok (s.raise (.eSync b), .none)
    else
      match storeByte b s with
      | .error f => .error f
      | .ok s => .ok (s, .none)
  else if s.idx = 1 then
    if b.toNat < s.cfg.crsfLenMin ∨ s.cfg.crsfLenMax < b.toNat then
      .ok ((s.raise (.eLen b)).withIdx 0, .none)
    else
      match storeByte b s with
      | .error f => .error f
      | .ok s => .ok (s.withExpLen (BitVec.ofNat 7 (b.toNat + 2)), .none)
  else
    match storeByte b s with
    | .error f => .error f
    | .ok s => if s.idx = s.expLen then crsfFrame now (s.withIdx 0) else .ok (s, .none)

/-- R135: STEP.CRSF(now). -/
def stepCrsf (now : Stamp) (s : State) : Except Fault State :=
  byteStreamStep (fun b s => crsfByte b now s) s.cfg.crsfFrameTo now s

/-- STEP.CRSF, R135. -/
def execStepCrsf (now : Stamp) (s : State) : Host.Outcome State Fault Refusal := ran (stepCrsf now s)

/-- CRSF.BYTE, R136. -/
def execCrsfByte (b : Byte) (now : Stamp) (s : State) : Host.Outcome State Fault Refusal :=
  ranVerdict (crsfByte b now s)

/-- CRSF.FRAME, R137. -/
def execCrsfFrame (now : Stamp) (s : State) : Host.Outcome State Fault Refusal :=
  ranVerdict (crsfFrame now s)

end Sys2Proof.Machine
end

