-- ==== Sys2Proof/Machine/Dsm.lean ====
section
/-! DEFINITION. The DSM2 / DSMX decoder (45_dsm.md R145 to R149). -/

namespace Sys2Proof.Machine

/-- R148: DSM.PAIR(v, bits) as a function of the Channel Buffer; 0xFFFF is tested before the fields are taken. -/
def dsmPair (v : Half) (bits : Width) (ch : Vector Half 16) : Vector Half 16 :=
  if v = 0xFFFF then ch
  else
    match bits with
    | .eleven => ch.set (dsmChannel v .eleven).toNat (normU11 (dsmRaw11 v)) (dsmChannel v .eleven).isLt
    | .ten => ch.set (dsmChannel v .ten).toNat (normU10 (dsmRaw10 v)) (dsmChannel v .ten).isLt

/-- R147: the slots 1 to 7 of a frame, in wire order; slot 0 is ignored (R70). -/
def dsmSlots (buf : Vector Byte 64) : List Half := [1, 2, 3, 4, 5, 6, 7].map (dsmSlot buf)

/-- R147: DSM.FRAME(now, bits). Always accepted. -/
def dsmFrame (now : Stamp) (bits : Width) (s : State) : State × Verdict :=
  ((s.withCh ((dsmSlots s.buf).foldl (fun ch v => dsmPair v bits ch) s.ch)).withFrameStamp now, .accept)

/-- R146: DSM.BYTE(b, now, bits). Every byte is kept: there is no header test. -/
def dsmByte (b : Byte) (now : Stamp) (bits : Width) (s : State) : Except Fault (State × Verdict) :=
  let s := gapCheck s.cfg.dsmByteTo now s
  match storeByte b s with
  | .error f => .error f
  | .ok s => if s.idx = 16 then .ok (dsmFrame now bits (s.withIdx 0)) else .ok (s, .none)

/-- R145: STEP.DSM(now, bits). -/
def stepDsm (now : Stamp) (bits : Width) (s : State) : Except Fault State :=
  byteStreamStep (fun b s => dsmByte b now bits s) s.cfg.dsmFrameTo now s

/-- STEP.DSM2, R145: STEP.DSM with 10 bits. -/
def execStepDsm2 (now : Stamp) (s : State) : Host.Outcome State Fault Refusal := ran (stepDsm now .ten s)

/-- STEP.DSMX, R145: STEP.DSM with 11 bits. -/
def execStepDsmx (now : Stamp) (s : State) : Host.Outcome State Fault Refusal := ran (stepDsm now .eleven s)

/-- DSM.BYTE, R146. -/
def execDsmByte (b : Byte) (now : Stamp) (bits : Width) (s : State) : Host.Outcome State Fault Refusal :=
  ranVerdict (dsmByte b now bits s)

/-- DSM.FRAME, R147. -/
def execDsmFrame (now : Stamp) (bits : Width) (s : State) : Host.Outcome State Fault Refusal :=
  ranVerdict (.ok (dsmFrame now bits s))

/-- DSM.PAIR, R148; it returns nothing. -/
def execDsmPair (v : Half) (bits : Width) (s : State) : Host.Outcome State Fault Refusal :=
  .next (s.withCh (dsmPair v bits s.ch))

end Sys2Proof.Machine
end

