-- ==== Sys2Proof/Machine/Fport.lean ====
section
/-! DEFINITION. The FPORT decoder (46_fport.md R155 to R159). No byte un-stuffing (R159). -/

namespace Sys2Proof.Machine

/-- R157: FPORT.FRAME(now): terminator, then type, then checksum (R197). The checksum is the plain exclusive or of the
24 payload bytes `buf[3..26]` (R158). -/
def fportFrame (now : Stamp) (s : State) : State × Verdict :=
  if s.buf[28] ≠ s.cfg.fportHdr then (s.raise (.eTerm s.buf[28]), .reject)
  else if s.buf[2] ≠ s.cfg.fportTypeRc then (s.raise (.eType s.buf[2] none), .reject)
  else if xorAll (s.slice 3 26) ≠ s.buf[27] then (s.raise .eXor, .reject)
  else ((s.withCh (unpackChannels (payloadAt s.buf 3))).withFrameStamp now, .accept)

/-- R156: FPORT.BYTE(b, now). -/
def fportByte (b : Byte) (now : Stamp) (s : State) : Except Fault (State × Verdict) :=
  let s := gapCheck s.cfg.fportByteTo now s
  if s.idx = 0 then
    if b ≠ s.cfg.fportHdr then .ok (s.raise (.eSync b), .none)
    else
      match storeByte b s with
      | .error f => .error f
      | .ok s => .ok (s, .none)
  else if s.idx = 1 then
    if b ≠ s.cfg.fportLenByte then .ok ((s.raise (.eLen b)).withIdx 0, .none)
    else
      match storeByte b s with
      | .error f => .error f
      | .ok s => .ok (s.withExpLen 29, .none)
  else
    match storeByte b s with
    | .error f => .error f
    | .ok s => if s.idx = 29 then .ok (fportFrame now (s.withIdx 0)) else .ok (s, .none)

/-- R155: STEP.FPORT(now). -/
def stepFport (now : Stamp) (s : State) : Except Fault State :=
  byteStreamStep (fun b s => fportByte b now s) s.cfg.fportFrameTo now s

/-- STEP.FPORT, R155. -/
def execStepFport (now : Stamp) (s : State) : Host.Outcome State Fault Refusal := ran (stepFport now s)

/-- FPORT.BYTE, R156. -/
def execFportByte (b : Byte) (now : Stamp) (s : State) : Host.Outcome State Fault Refusal :=
  ranVerdict (fportByte b now s)

/-- FPORT.FRAME, R157. -/
def execFportFrame (now : Stamp) (s : State) : Host.Outcome State Fault Refusal :=
  ranVerdict (.ok (fportFrame now s))

end Sys2Proof.Machine
end

