-- ==== Sys2Proof/Machine/Sbus.lean ====
section
/-! DEFINITION. The SBUS decoder (43_sbus.md R125 to R127). -/

namespace Sys2Proof.Machine

/-- R127: SBUS.FRAME(now). Footer before flags (R197); a rejected frame changes nothing but the event log. -/
def sbusFrame (now : Stamp) (s : State) : State × Verdict :=
  if s.buf[24] ∉ s.cfg.sbusFooters then (s.raise (.eFooter s.buf[24]), .reject)
  else if sbusFlagged s.cfg s.buf[23] then (s.raise (.eFlags s.buf[23]), .reject)
  else ((s.withCh (unpackChannels (payloadAt s.buf 1))).withFrameStamp now, .accept)

/-- R126: SBUS.BYTE(b, now). -/
def sbusByte (b : Byte) (now : Stamp) (s : State) : Except Fault (State × Verdict) :=
  let s := gapCheck s.cfg.sbusByteTo now s
  if s.idx = 0 ∧ b ≠ 0x0F then .ok (s.raise (.eSync b), .none)
  else
    match storeByte b s with
    | .error f => .error f
    | .ok s => if s.idx = 25 then .ok (sbusFrame now (s.withIdx 0)) else .ok (s, .none)

/-- R125: STEP.SBUS(now). -/
def stepSbus (now : Stamp) (s : State) : Except Fault State :=
  byteStreamStep (fun b s => sbusByte b now s) s.cfg.sbusFrameTo now s

/-- STEP.SBUS, R125. -/
def execStepSbus (now : Stamp) (s : State) : Host.Outcome State Fault Refusal := ran (stepSbus now s)

/-- SBUS.BYTE, R126. -/
def execSbusByte (b : Byte) (now : Stamp) (s : State) : Host.Outcome State Fault Refusal :=
  ranVerdict (sbusByte b now s)

/-- SBUS.FRAME, R127. -/
def execSbusFrame (now : Stamp) (s : State) : Host.Outcome State Fault Refusal :=
  ranVerdict (.ok (sbusFrame now s))

end Sys2Proof.Machine
end

