-- ==== Sys2Proof/Machine/Framer.lean ====
section
/-! DEFINITION. FRAMER.STEP, the generic byte-stream step in terms of a policy (42_framing.md R121 with the policy table
R120). The protocols' own steps are in their files; that the two agree is a statement, not a definition. -/

namespace Sys2Proof.Machine

/-- The integrity check, unpacking and writing of a policy (R120, the rows "integrity check" to "channels written"). -/
def policyFrame (x : Policy) (now : Stamp) (s : State) : Except Fault (State × Verdict) :=
  match x with
  | .sbus => .ok (sbusFrame now s)
  | .crsf => crsfFrame now s
  | .dsm2 => .ok (dsmFrame now .ten s)
  | .dsmx => .ok (dsmFrame now .eleven s)
  | .fport => .ok (fportFrame now s)

/-- The last three steps of the loop body of R121: length rule's `exp_len`, store, completion test. -/
def framerStore (x : Policy) (b : Byte) (now : Stamp) (s : State) : Except Fault (State × Verdict) :=
  match storeByte b s with
  | .error f => .error f
  | .ok s => if s.idx.toNat = policyFrameLen s x then policyFrame x now (s.withIdx 0) else .ok (s, .none)

/-- The loop body of R121 for one popped byte: gap (R112), sync (R113), length (R114), store (R115), completion
(R116). -/
def framerByte (x : Policy) (b : Byte) (now : Stamp) (s : State) : Except Fault (State × Verdict) :=
  let s := gapCheck (policyByteTo s.cfg x) now s
  if s.idx = 0 ∧ (policyHeader s.cfg x).any (fun hdr => b != hdr) then .ok (s.raise (.eSync b), .none)
  else if s.idx = 1 then
    match policyLengthOk s.cfg x with
    | none => framerStore x b now s
    | some ok =>
      if ok b then framerStore x b now (s.withExpLen (policyLengthOf x b))
      else .ok ((s.raise (.eLen b)).withIdx 0, .none)
  else framerStore x b now s

/-- R121: FRAMER.STEP(now) with policy X. -/
def framerStep (x : Policy) (now : Stamp) (s : State) : Except Fault State :=
  byteStreamStep (fun b s => framerByte x b now s) (policyFrameTo s.cfg x) now s

/-- FRAMER.STEP, R121. -/
def execFramerStep (x : Policy) (now : Stamp) (s : State) : Host.Outcome State Fault Refusal :=
  ran (framerStep x now s)

end Sys2Proof.Machine
end

