-- ==== Sys2Proof/Machine/Ibus.lean ====
section
/-! DEFINITION. The IBUS adapter (48_ibus.md R185, R186). -/

namespace Sys2Proof.Machine

/-- `ibus_advance()` (30_encoding.md R78): the collaborator's next answer. It is the oldest of `ibusAns`; where that
list is empty, a free value (log entry 2). -/
def ibusAdvance (s : State) : IbusAnswer × State :=
  match s.ibusAns with
  | a :: rest => (a, { s with ibusAns := rest })
  | [] => (Config.ibusAnswer s.ibusCalls, { s with ibusCalls := s.ibusCalls + 1 })

/-- R186, after the call: nothing new gives 0; else the first IBUS_NCH values are copied, clamped. An IBUS_NCH above 16
would write past `CH` (U8; log entry 9). -/
def ibusCopy (a : IbusAnswer) (s : State) : Except Fault State :=
  if a.new = false then .ok (s.withOut (.stepOk false))
  else if s.cfg.ibusNch ≤ 16 then
    .ok ((s.withCh (copyFirst s.cfg.ibusNch (fun i => normIbus a.vals[i]) s.ch)).withOut (.stepOk true))
  else .error (.indexRange .ch (s.cfg.ibusNch - 1))

/-- R186: STEP.IBUS(): exactly one call of the collaborator. -/
def stepIbus (s : State) : Except Fault State := ibusCopy (ibusAdvance s).1 (ibusAdvance s).2

/-- STEP.IBUS, R186. -/
def execStepIbus (s : State) : Host.Outcome State Fault Refusal := ran (stepIbus s)

end Sys2Proof.Machine
end

