-- ==== Sys2Proof/Machine/Ppm.lean ====
section
/-! DEFINITION. PCAP: the PPM capture handler and the PPM decode step (47_ppm.md R166 to R172). -/

namespace Sys2Proof.Machine

/-- R167: EDGE.NOISE(w). No state change (`last_edge_us` is EDGE's, R166). -/
def edgeNoise (w : Stamp) (s : State) : State := s.raise (.eNoise w)

/-- R168: EDGE.SYNC.ACC(w, tms). A pulse count above 16 would read past `pw` (R32; log entry 9). -/
def edgeSyncAcc (tms : Stamp) (s : State) : Except Fault State :=
  if s.ppmIdx.toNat ≤ 16 then
    .ok { s with
      latN := s.ppmIdx
      lat := copyFirst s.ppmIdx.toNat (fun i => s.pw[i]) s.lat
      fc := true
      missed := 0
      ppmLastFrameMs := tms
      ppmIdx := 0 }
  else .error (.indexRange .pw (s.ppmIdx.toNat - 1))

/-- R169: EDGE.SYNC.REJ(w). `missed` saturates at 255. -/
def edgeSyncRej (s : State) : State :=
  { s.raise (.eCount s.ppmIdx) with
    missed := if s.missed = 255 then 255 else s.missed + 1
    ppmIdx := 0 }

/-- R170: EDGE.CHAN(w). A seventeenth pulse is dropped. -/
def edgeChan (w : Stamp) (s : State) : State :=
  if h : s.ppmIdx.toNat < 16 then
    { s with pw := s.pw.set s.ppmIdx.toNat (w.setWidth 16) h, ppmIdx := s.ppmIdx + 1 }
  else s

/-- R171: EDGE.GAP(w), treated as noise. -/
def edgeGap (w : Stamp) (s : State) : State := s.raise (.eNoise w)

/-- The arm of R166 for a measured width, in the order of R64. -/
def edgeClassified (w tms : Stamp) (s : State) : Except Fault State :=
  match s.cfg.classify w with
  | .noise => .ok (edgeNoise w s)
  | .sync => if 4 ≤ s.ppmIdx.toNat ∧ s.ppmIdx.toNat ≤ 16 then edgeSyncAcc tms s else .ok (edgeSyncRej s)
  | .chan => .ok (edgeChan w s)
  | .gap => .ok (edgeGap w s)

/-- R166: EDGE(T). With any selector but PPM the edge has no effect. -/
def edge (t : Nat) (s : State) : Except Fault State :=
  if edgeEnabled s then edgeClassified (enterEdgeHandler t s).1 (tMs t) (enterEdgeHandler t s).2
  else .ok s

/-- The critical section of STEP.PPM (R172, R173): copy `lat[0..lat_n-1]`, saturated, and clear `fc`. A count above 16
would read past `lat` (R32; log entry 9). -/
def ppmCritical (s : State) : Except Fault State :=
  if s.latN.toNat ≤ 16 then
    .ok { s with ch := copyFirst s.latN.toNat (fun i => normPpm s.lat[i]) s.ch, fc := false }
  else .error (.indexRange .lat (s.latN.toNat - 1))

/-- R172: STEP.PPM(now). The three tests in the rule's order; a failing step changes no state. The info of the second
test's label is `ppm_idx` (60_exceptions.md R191). -/
def stepPpm (now : Stamp) (s : State) : Except Fault State :=
  if s.fc = false then .ok (s.withOut (.stepOk false))
  else if tooManyMissed s then .ok ((s.raise (.eCount s.ppmIdx)).withOut (.stepOk false))
  else if losPpm now s then .ok ((s.raise .eLos).withOut (.stepOk false))
  else
    match ppmCritical s with
    | .error f => .error f
    | .ok s => .ok (s.withOut (.stepOk true))

/-- EDGE, R166, at time T. -/
def execEdge (t : Nat) (s : State) : Host.Outcome State Fault Refusal := ran (edge t (s.withTime t))

/-- EDGE.NOISE, R167. -/
def execEdgeNoise (w : Stamp) (s : State) : Host.Outcome State Fault Refusal := .next (edgeNoise w s)

/-- EDGE.SYNC.ACC, R168; the width of the gap is not stored. -/
def execEdgeSyncAcc (_w tms : Stamp) (s : State) : Host.Outcome State Fault Refusal := ran (edgeSyncAcc tms s)

/-- EDGE.SYNC.REJ, R169; the width of the gap is not stored. -/
def execEdgeSyncRej (_w : Stamp) (s : State) : Host.Outcome State Fault Refusal := .next (edgeSyncRej s)

/-- EDGE.CHAN, R170. -/
def execEdgeChan (w : Stamp) (s : State) : Host.Outcome State Fault Refusal := .next (edgeChan w s)

/-- EDGE.GAP, R171. -/
def execEdgeGap (w : Stamp) (s : State) : Host.Outcome State Fault Refusal := .next (edgeGap w s)

/-- STEP.PPM, R172. -/
def execStepPpm (now : Stamp) (s : State) : Host.Outcome State Fault Refusal := ran (stepPpm now s)

end Sys2Proof.Machine
end

