-- ==== Sys2Proof/Machine/Control.lean ====
section
/-! DEFINITION. RESET, RXPUSH, the dispatcher STEP and the reserved arm (40_dispatch.md R90 to R93, 20_memory.md
R44). -/

namespace Sys2Proof.Machine

/-- R90: RESET(psel): every element of RCDEC takes the value of R33. The environment (configuration, events and answers
still to come) and the event log stay; no result is held (log entries 6, 7). -/
def reset (psel : Psel) (s : State) : State :=
  { State.resetWith s.cfg psel with
    ibusAns := s.ibusAns
    ibusCalls := s.ibusCalls
    inbox := s.inbox
    log := s.log }

/-- R93: STEP.RSVD(): returns 0 and changes no state. -/
def stepRsvd (s : State) : State := s.withOut (.stepOk false)

/-- R92: STEP(T): the clock is read once and the decoder of the latched selector is invoked. -/
def stepDispatch (t : Nat) (s : State) : Except Fault State :=
  match s.cfg.proto s.psel with
  | .ppm => stepPpm (tMs t) s
  | .ibus => stepIbus s
  | .sbus => stepSbus (tMs t) s
  | .crsf => stepCrsf (tMs t) s
  | .dsm2 => stepDsm (tMs t) .ten s
  | .dsmx => stepDsm (tMs t) .eleven s
  | .fport => stepFport (tMs t) s
  | .rsvd => .ok (stepRsvd s)

/-- RESET, R90. -/
def execReset (psel : Psel) (s : State) : Host.Outcome State Fault Refusal := .next (reset psel s)

/-- RXPUSH, R44: append the byte at the tail and change nothing else. -/
def execRxpush (b : Byte) (s : State) : Host.Outcome State Fault Refusal := .next (s.withRxq (s.rxq ++ [b]))

/-- STEP, R92, at time T. -/
def execStep (t : Nat) (s : State) : Host.Outcome State Fault Refusal := ran (stepDispatch t (s.withTime t))

/-- STEP.RSVD, R93. -/
def execStepRsvd (s : State) : Host.Outcome State Fault Refusal := .next (stepRsvd s)

end Sys2Proof.Machine
end

