-- ==== Sys2Proof/Machine/Dispatch.lean ====
section
/-! DEFINITION. The dispatcher of the 34 operations of opcode_table.json: one arm each, one meaning each. -/

namespace Sys2Proof.Machine

def exec (i : Instr) (s : State) : Host.Outcome State Fault Refusal :=
  match i with
  | .reset psel => Sys2Proof.Machine.execReset psel s
  | .rxpush b => Sys2Proof.Machine.execRxpush b s
  | .step t => Sys2Proof.Machine.execStep t s
  | .edge t => Sys2Proof.Machine.execEdge t s
  | .stepPpm now => Sys2Proof.Machine.execStepPpm now s
  | .stepIbus => Sys2Proof.Machine.execStepIbus s
  | .stepSbus now => Sys2Proof.Machine.execStepSbus now s
  | .stepCrsf now => Sys2Proof.Machine.execStepCrsf now s
  | .stepDsm2 now => Sys2Proof.Machine.execStepDsm2 now s
  | .stepDsmx now => Sys2Proof.Machine.execStepDsmx now s
  | .stepFport now => Sys2Proof.Machine.execStepFport now s
  | .stepRsvd => Sys2Proof.Machine.execStepRsvd s
  | .edgeNoise w => Sys2Proof.Machine.execEdgeNoise w s
  | .edgeSyncAcc w tms => Sys2Proof.Machine.execEdgeSyncAcc w tms s
  | .edgeSyncRej w => Sys2Proof.Machine.execEdgeSyncRej w s
  | .edgeChan w => Sys2Proof.Machine.execEdgeChan w s
  | .edgeGap w => Sys2Proof.Machine.execEdgeGap w s
  | .framerStep x now => Sys2Proof.Machine.execFramerStep x now s
  | .sbusByte b now => Sys2Proof.Machine.execSbusByte b now s
  | .sbusFrame now => Sys2Proof.Machine.execSbusFrame now s
  | .crsfByte b now => Sys2Proof.Machine.execCrsfByte b now s
  | .crsfFrame now => Sys2Proof.Machine.execCrsfFrame now s
  | .dsmByte b now bits => Sys2Proof.Machine.execDsmByte b now bits s
  | .dsmFrame now bits => Sys2Proof.Machine.execDsmFrame now bits s
  | .dsmPair v bits => Sys2Proof.Machine.execDsmPair v bits s
  | .fportByte b now => Sys2Proof.Machine.execFportByte b now s
  | .fportFrame now => Sys2Proof.Machine.execFportFrame now s
  | .unpack11le p k => Sys2Proof.Machine.execUnpack11le p k s
  | .scale raw lo hi => Sys2Proof.Machine.execScale raw lo hi s
  | .normS11 raw => Sys2Proof.Machine.execNormS11 raw s
  | .normU11 raw => Sys2Proof.Machine.execNormU11 raw s
  | .normU10 raw => Sys2Proof.Machine.execNormU10 raw s
  | .normPpm w => Sys2Proof.Machine.execNormPpm w s
  | .normIbus v => Sys2Proof.Machine.execNormIbus v s

end Sys2Proof.Machine
end

