-- ==== Sys2Proof/Machine/Fetch.lean ====
section
/-! DEFINITION. Fetching: the oldest event record of the inbox (30_encoding.md R61; log entry 4), and the placing of an
operation of opcode_table.json where the next step finds it. -/

namespace Sys2Proof.Machine

/-- The oldest record and the state without it; nothing where no event has arrived. -/
def State.fetch (s : State) : Option (List Byte × State) :=
  match s.inbox with
  | [] => none
  | r :: rest => some (r, s.withInbox rest)

/-- Write a wire frame into the frame buffer from byte 0 on. -/
def frameInto (buf : Vector Byte 64) (f : List Byte) : Vector Byte 64 :=
  Vector.ofFn fun i => f.getD i.val buf[i]

/-- Store a table word where the next step finds it: a FRAME row's word is a wire frame, so it stands in `buf` and the
record of its FRAME operation in the inbox; any other row's word, with the zero operand bits above it, is the record
itself, cut where its operation ends. A word of no bits is the empty record. -/
def State.placeWord (s : State) (nbits w : Nat) : State :=
  if nbits = 0 then s.withInbox [[]]
  else if 128 ≤ nbits then
    match decodeFrame (tableBytes nbits w) with
    | none => s.withInbox [tableBytes nbits w]
    | some i => { s.withInbox [encode i] with buf := frameInto s.buf (tableBytes nbits w) }
  else
    match decode (tableBytes nbits w ++ tablePadding) with
    | .error _ => s.withInbox [tableBytes nbits w]
    | .ok (_, r) =>
      s.withInbox [(tableBytes nbits w ++ tablePadding).take ((tableBytes nbits w ++ tablePadding).length - r.length)]

end Sys2Proof.Machine
end

