-- ==== Sys2Proof/Machine/Step.lean ====
section
/-! DEFINITION. One step: take the oldest event record and run the operation it encodes (20_memory.md R46: one
indivisible transition). -/

namespace Sys2Proof.Machine

/-- The step. With no event record nothing happens; a record that encodes no operation is refused by name. -/
def step (s : State) : Host.Outcome State Fault Refusal :=
  match s.fetch with
  | none => .next s
  | some (r, s') =>
    match decodeRecord r with
    | .error e => .refused (.undecodable e)
    | .ok i => exec i s'

/-- The state with the operation of a table word as the next event (log entry 4). -/
def State.withFetchWord (s : State) (nbits w : Nat) : State := s.placeWord nbits w

end Sys2Proof.Machine
end

