-- ==== Sys2Proof/Machine/Trace.lean ====
section
/-! DEFINITION. The trace notation of 30_encoding.md R75: the lines of a program for RCDEC and their pseudo-operations,
as the event records and collaborator's answers they stand for. -/

namespace Sys2Proof.Machine

/-- The selector code of a protocol name (R62, R75); `rsvd` (RSVD7) is the code that is none of the seven (R63). -/
def protocolCode (c : Cfg) : Protocol → Psel
  | .ppm => c.pselPpm
  | .ibus => c.pselIbus
  | .sbus => c.pselSbus
  | .crsf => c.pselCrsf
  | .dsm2 => c.pselDsm2
  | .dsmx => c.pselDsmx
  | .fport => c.pselFport
  | .rsvd => ([0#3, 1#3, 2#3, 3#3, 4#3, 5#3, 6#3, 7#3].find? fun k => decide (c.proto k = .rsvd)).getD 7

/-- One line of a trace (R75). The expected result of a STEP line and the text of a comment have no effect. -/
inductive TraceLine where
  | reset (p : Protocol)
  | rx (bs : List Byte)
  | edgeAt (t : Nat)
  | stepAt (t : Nat) (expected : Bool)
  | ibusNew (vals : List Half)
  | ibusNone
  | comment (text : String)
deriving DecidableEq, Repr

/-- The events of a line, in order: one RXPUSH per byte of an RX line. -/
def traceEvents (c : Cfg) : TraceLine → List Instr
  | .reset p => [.reset (protocolCode c p)]
  | .rx bs => bs.map .rxpush
  | .edgeAt t => [.edge t]
  | .stepAt t _ => [.step t]
  | .ibusNew _ => []
  | .ibusNone => []
  | .comment _ => []

/-- The collaborator's answers that a line announces. DESIGN CHOICE (log entry 12): R75 does not say what an `IBUS new` line
with fewer than IBUS_NCH values means; here the missing values are 0, and values past the sixteenth are dropped. -/
def traceAnswers : TraceLine → List IbusAnswer
  | .ibusNew vals => [⟨true, Vector.ofFn fun i => vals.getD i.val 0⟩]
  | .ibusNone => [⟨false, Vector.replicate 16 0⟩]
  | .reset _ => []
  | .rx _ => []
  | .edgeAt _ => []
  | .stepAt _ _ => []
  | .comment _ => []

/-- A trace placed before the machine: its events at the end of the inbox, its answers at the end of the answers.
DESIGN CHOICE (log entry 12): R75 pairs an IBUS line with the next STEP.IBUS and gives no answer to a STEP.IBUS that no
line stands before; here the n-th STEP.IBUS takes the n-th line's answer wherever the lines stand, so such a STEP takes a
later line's answer, or, where none is left, the free one (log entry 2). -/
def loadTrace (ls : List TraceLine) (s : State) : State :=
  { s with
    inbox := s.inbox ++ (ls.flatMap (traceEvents s.cfg)).map encode
    ibusAns := s.ibusAns ++ ls.flatMap traceAnswers }

/-- The 176-bit number that holds 11-bit fields low-bit-first (R42, R67). -/
def packNat : List (BitVec 11) → Nat
  | [] => 0
  | c :: cs => c.toNat + 2048 * packNat cs

/-- "the 22 bytes that rule R67 inverts for raw values c0..c15" (R75). -/
def pack11le (raw : Vector (BitVec 11) 16) : Vector Byte 22 :=
  Vector.ofFn fun i => (leBytes 22 (packNat raw.toList)).getD i.val 0

/-- FRAME.SBUS c0..c15 flags footer (R75). -/
def frameSbus (raw : Vector (BitVec 11) 16) (flags footer : Byte) : List Byte :=
  0x0F :: ((pack11le raw).toList ++ [flags, footer])

/-- FRAME.CRSF c0..c15 (R75): the checksum is the XOR of bytes 1..24. -/
def frameCrsf (c : Cfg) (raw : Vector (BitVec 11) 16) : List Byte :=
  c.crsfSync :: ((24 :: c.crsfTypeRc :: (pack11le raw).toList) ++
    [xorAll (24 :: c.crsfTypeRc :: (pack11le raw).toList)])

/-- FRAME.FPORT c0..c15 f r (R75): the checksum is the XOR of the 24 payload bytes. -/
def frameFport (c : Cfg) (raw : Vector (BitVec 11) 16) (f r : Byte) : List Byte :=
  [c.fportHdr, c.fportLenByte, c.fportTypeRc] ++ (((pack11le raw).toList ++ [f, r]) ++
    [xorAll ((pack11le raw).toList ++ [f, r]), c.fportHdr])

/-- PULSES @T0 w1 ... wn (R75): edges at T0, T0+w1, T0+w1+w2, and so on. -/
def pulses (t0 : Nat) : List Nat → List TraceLine
  | [] => [.edgeAt t0]
  | w :: ws => .edgeAt t0 :: pulses (t0 + w) ws

end Sys2Proof.Machine
end

