-- ==== Sys2Proof/Safety.lean ====
section
/-! DEFINITION. What a good state and a safe run of RCDEC are, in the terms the statements use: the invariants of
10_state.md R34 (with what keeps them), the dormancy of 40_dispatch.md R91, the order of times of 60_exceptions.md
R204. -/

namespace Sys2Proof.Machine

/-- A channel value in the canonical range (R34 a, R107). -/
abbrev InRange (v : Half) : Prop := 1000 ≤ v.toNat ∧ v.toNat ≤ 2000

/-- R34 a: every entry of the Channel Buffer is in range. -/
abbrev ChInRange (s : State) : Prop := ∀ i : Fin 16, InRange s.ch[i]

/-- Under CRSF the partial frame and `exp_len` agree: `exp_len` is the reset value or a legal length plus 2, and from
byte 2 on it is the length byte plus 2, with `idx` below it (44_crsf.md R136, 42_framing.md R121). -/
abbrev CrsfCoherent (s : State) : Prop :=
  (s.expLen = 0 ∨ (s.cfg.crsfLenMin + 2 ≤ s.expLen.toNat ∧ s.expLen.toNat ≤ s.cfg.crsfLenMax + 2)) ∧
  (2 ≤ s.idx.toNat →
    s.cfg.crsfLenMin ≤ s.buf[1].toNat ∧ s.buf[1].toNat ≤ s.cfg.crsfLenMax ∧
    s.expLen.toNat = s.buf[1].toNat + 2 ∧ s.idx.toNat < s.expLen.toNat)

/-- R34 b, by protocol: between steps `idx` is below the frame length in force (R31 a), and 0 where no byte-stream
decoder is active. -/
def FramerOk (s : State) : Prop :=
  match s.cfg.proto s.psel with
  | .sbus => s.idx.toNat < 25
  | .crsf => CrsfCoherent s
  | .dsm2 => s.idx.toNat < 16
  | .dsmx => s.idx.toNat < 16
  | .fport => s.idx.toNat < 29
  | .ppm => s.idx = 0
  | .ibus => s.idx = 0
  | .rsvd => s.idx = 0

/-- R34 c, d, e: the capture counts. -/
structure CaptureOk (s : State) : Prop where
  ppmIdxBound : s.ppmIdx.toNat ≤ 16
  latNBound : s.latN = 0 ∨ (4 ≤ s.latN.toNat ∧ s.latN.toNat ≤ 16)
  fcHasFrame : s.fc = true → 4 ≤ s.latN.toNat ∧ s.latN.toNat ≤ 16

/-- The record is an event of R61: what an agent of R9 can deliver. -/
def recordIsEvent (r : List Byte) : Bool :=
  match decodeRecord r with
  | .ok i => i.isEvent
  | .error _ => false

/-- The environment delivers events only (R61): no record asks for an internal operation directly. -/
abbrev EventsOnly (s : State) : Prop := ∀ r ∈ s.inbox, recordIsEvent r = true

/-- The invariant of a run: R34 a to e for a legal configuration, fed with events only. -/
structure Inv (s : State) : Prop where
  legal : s.cfg.Legal
  chInRange : ChInRange s
  framerOk : FramerOk s
  captureOk : CaptureOk s
  eventsOnly : EventsOnly s

/-- The decoder is one of the four byte-stream decoders (42_framing.md R110), which alone pop the RX queue (R44). -/
def byteStream (p : Protocol) : Bool :=
  match p with
  | .sbus => true
  | .crsf => true
  | .dsm2 => true
  | .dsmx => true
  | .fport => true
  | .ppm => false
  | .ibus => false
  | .rsvd => false

/-- The capture state at its reset values (R33). -/
structure CaptureDormant (s : State) : Prop where
  lastEdgeUs : s.lastEdgeUs = 0
  pw : s.pw = Vector.replicate 16 0
  ppmIdx : s.ppmIdx = 0
  lat : s.lat = Vector.replicate 16 0
  latN : s.latN = 0
  fc : s.fc = false
  missed : s.missed = 0
  ppmLastFrameMs : s.ppmLastFrameMs = 0

/-- The framer session state at its reset values (R33). -/
structure FramerDormant (s : State) : Prop where
  buf : s.buf = Vector.replicate 64 0
  idx : s.idx = 0
  expLen : s.expLen = 0
  lastByteMs : s.lastByteMs = 0
  lastFrameMs : s.lastFrameMs = 0

/-- R91: the elements that the selected decoder does not use keep their reset values: the capture state under every
selector but PPM, the framer state under PPM, IBUS and the reserved code, `exp_len` also under SBUS and DSM (R15), and
`ibus_inited` says whether IBUS is selected (R26). -/
structure Dormant (s : State) : Prop where
  capture : s.cfg.proto s.psel ≠ .ppm → CaptureDormant s
  framer : byteStream (s.cfg.proto s.psel) = false → FramerDormant s
  expLen : s.cfg.proto s.psel ≠ .crsf → s.cfg.proto s.psel ≠ .fport → s.expLen = 0
  ibus : s.ibusInited = decide (s.psel = s.cfg.pselIbus)

/-- R204: from time `now` on, the times of EDGE and STEP events never decrease; a RESET starts the time again at 0
(R90). -/
def timesOrdered (now : Nat) : List (List Byte) → Prop
  | [] => True
  | r :: rest =>
    match decodeRecord r with
    | .ok (.edge t) => now ≤ t ∧ timesOrdered t rest
    | .ok (.step t) => now ≤ t ∧ timesOrdered t rest
    | .ok (.reset _) => timesOrdered 0 rest
    | .ok _ => timesOrdered now rest
    | .error _ => timesOrdered now rest

/-- Run operations one after another, as long as each answers a next state. -/
def execAll : List Instr → State → Option State
  | [], s => some s
  | i :: is, s =>
    match exec i s with
    | .next s' => execAll is s'
    | .fault _ => none
    | .refused _ => none

/-- The operation is an edge that completes a PPM frame: EDGE.SYNC.ACC itself, or an EDGE under PPM whose width is of class
SYNC after 4 to 16 channel pulses (47_ppm.md R166, R168). -/
def CompletesPpmFrame (i : Instr) (s : State) : Prop :=
  (∃ w tms, i = .edgeSyncAcc w tms) ∨
  ∃ t, i = .edge t ∧ s.cfg.proto s.psel = .ppm ∧ s.cfg.classify (BitVec.ofNat 32 t - s.lastEdgeUs) = .sync ∧
    4 ≤ s.ppmIdx.toNat ∧ s.ppmIdx.toNat ≤ 16

/-- What every byte-stream STEP at `now` does to the machine (R94, R111, R119, R35): it returns one bit; a failed step
has emptied the queue and left the channels and the frame stamp alone; a successful one stamped the frame, is back in
sync search, and has popped at least one byte off the front of the queue; and no field but the framer's own, the
channels, the queue, the result and the event log has changed. -/
structure ByteStreamStep (now : Stamp) (s t : State) : Prop where
  bit : ∃ ok, t.out = .stepOk ok
  failed : t.out = .stepOk false → t.rxq = [] ∧ t.ch = s.ch ∧ t.lastFrameMs = s.lastFrameMs
  accepted : t.out = .stepOk true →
    t.lastFrameMs = now ∧ t.lastByteMs = now ∧ t.idx = 0 ∧ ∃ used, used ≠ [] ∧ s.rxq = used ++ t.rxq
  frame : t = { s with
    ch := t.ch, buf := t.buf, idx := t.idx, expLen := t.expLen, lastByteMs := t.lastByteMs
    lastFrameMs := t.lastFrameMs, rxq := t.rxq, out := t.out, log := t.log }

/-- A step that neither faults nor is refused (60_exceptions.md R192). -/
def StepsSafely (s : State) : Prop := ∃ s', step s = .next s'

end Sys2Proof.Machine
end

