-- ==== Sys2Proof/Certificates/Slice0/Obligations.lean ====
section
/-! DEFINITION. The statements for the provers, each the formal reading of a rule of spec/ (cited in OBLIGATIONS.json).
A statement that rests on a choice of the model names the log entry in its docstring. -/

open Sys2Proof Sys2Proof.Machine

/-! ### Decoding and stepping -/

/-- Decoding inverts encoding for every well-formed operation, with any bytes behind it. The record form is the model's
(log entry 8). -/
def Obligations.DecodeInvertsEncode : Prop :=
  ∀ (i : Instr) (rest : List Byte), i.wellFormed = true →
    decode (encode i ++ rest) = .ok (i, rest) ∧ decodeRecord (encode i) = .ok i

/-- Every record that decodes is the encoding of the well-formed operation it decodes to: each record has one meaning
and no bit of it is dropped. The record form is the model's (log entry 8). -/
def Obligations.EncodeInvertsDecode : Prop :=
  ∀ (r : List Byte) (i : Instr), decodeRecord r = .ok i → i.wellFormed = true ∧ encode i = r

/-- The words of the eight PSEL3 rows decode to the eight STEP arms, and a record written out byte by byte to its
operation. The record form is the model's (log entry 8). -/
def Obligations.TableWordsDecode : Prop :=
  decodeTableWord 8 0 = some (.stepPpm 0) ∧ decodeTableWord 8 1 = some .stepIbus ∧
  decodeTableWord 8 2 = some (.stepSbus 0) ∧ decodeTableWord 8 3 = some (.stepCrsf 0) ∧
  decodeTableWord 8 4 = some (.stepDsm2 0) ∧ decodeTableWord 8 5 = some (.stepDsmx 0) ∧
  decodeTableWord 8 6 = some (.stepFport 0) ∧ decodeTableWord 8 7 = some .stepRsvd ∧
  decodeRecord [0x10, 0x02] = .ok (.reset 2) ∧
  decodeRecord [0x12, 0xE8, 0x07] = .ok (.step 1000)

/-- A step takes the oldest event record off the inbox and runs the operation it encodes on the state without it; with
no record nothing happens. How events reach the machine is the model's choice (log entry 4), and so is the last clause:
the spec has no refusals (R192), but a record that encodes nothing is no event of R61 and is refused by name (log entry
8). -/
def Obligations.StepRunsDecodedRecord : Prop :=
  ∀ s : State,
    (s.inbox = [] → step s = .next s) ∧
    (∀ r rest i, s.inbox = r :: rest → decodeRecord r = .ok i → step s = exec i { s with inbox := rest }) ∧
    (∀ r rest e, s.inbox = r :: rest → decodeRecord r = .error e → step s = .refused (.undecodable e))

/-! ### Selection -/

/-- For every legal configuration the seven codes select their seven decoders and any other code is the reserved one;
in REFCFG the codes are 0 to 6 and the reserved one is 7. -/
def Obligations.SelectorCodes : Prop :=
  (∀ c : Cfg, c.Legal →
    c.proto c.pselPpm = .ppm ∧ c.proto c.pselIbus = .ibus ∧ c.proto c.pselSbus = .sbus ∧
    c.proto c.pselCrsf = .crsf ∧ c.proto c.pselDsm2 = .dsm2 ∧ c.proto c.pselDsmx = .dsmx ∧
    c.proto c.pselFport = .fport ∧
    ∀ k, k ∉ [c.pselPpm, c.pselIbus, c.pselSbus, c.pselCrsf, c.pselDsm2, c.pselDsmx, c.pselFport] →
      c.proto k = .rsvd) ∧
  refcfg.proto 0 = .ppm ∧ refcfg.proto 1 = .ibus ∧ refcfg.proto 2 = .sbus ∧ refcfg.proto 3 = .crsf ∧
  refcfg.proto 4 = .dsm2 ∧ refcfg.proto 5 = .dsmx ∧ refcfg.proto 6 = .fport ∧ refcfg.proto 7 = .rsvd

/-- STEP(T) reads the millisecond counter once and is the arm of the latched selector (R92). That the state keeps the
event's time is the model's choice (log entry 5). -/
def Obligations.StepRunsSelectedArm : Prop :=
  ∀ (t : Nat) (s : State), let now : Stamp := BitVec.ofNat 32 (t / 1000); let s1 := { s with time := t }
    (s.cfg.proto s.psel = .ppm → exec (.step t) s = exec (.stepPpm now) s1) ∧
    (s.cfg.proto s.psel = .ibus → exec (.step t) s = exec .stepIbus s1) ∧
    (s.cfg.proto s.psel = .sbus → exec (.step t) s = exec (.stepSbus now) s1) ∧
    (s.cfg.proto s.psel = .crsf → exec (.step t) s = exec (.stepCrsf now) s1) ∧
    (s.cfg.proto s.psel = .dsm2 → exec (.step t) s = exec (.stepDsm2 now) s1) ∧
    (s.cfg.proto s.psel = .dsmx → exec (.step t) s = exec (.stepDsmx now) s1) ∧
    (s.cfg.proto s.psel = .fport → exec (.step t) s = exec (.stepFport now) s1) ∧
    (s.cfg.proto s.psel = .rsvd → exec (.step t) s = exec .stepRsvd s1)

/-- EDGE(T): inert unless PPM is selected; else the width is measured modulo 2^32, `last_edge_us` takes the edge's
time whatever the class, and the class's arm runs (R166). It always completes. That the state keeps the event's time is
the model's choice (log entry 5). -/
def Obligations.EdgeRunsClassArm : Prop :=
  ∀ (t : Nat) (s : State),
    let w : Stamp := BitVec.ofNat 32 t - s.lastEdgeUs
    let tms : Stamp := BitVec.ofNat 32 (t / 1000)
    let s1 := { s with time := t, lastEdgeUs := BitVec.ofNat 32 t }
    let noise := w.toNat < s.cfg.ppmNoiseMin ∨ s.cfg.ppmAbsMax < w.toNat
    let sync := s.cfg.ppmSyncMin < w.toNat ∧ w.toNat < s.cfg.ppmSyncMax
    let chan := s.cfg.ppmChMin ≤ w.toNat ∧ w.toNat ≤ s.cfg.ppmChMax
    let counted := 4 ≤ s.ppmIdx.toNat ∧ s.ppmIdx.toNat ≤ 16
    (∃ s', exec (.edge t) s = .next s') ∧
    (s.cfg.proto s.psel ≠ .ppm → exec (.edge t) s = .next { s with time := t }) ∧
    (s.cfg.proto s.psel = .ppm →
      (noise → exec (.edge t) s = exec (.edgeNoise w) s1) ∧
      (¬noise → sync → counted → exec (.edge t) s = exec (.edgeSyncAcc w tms) s1) ∧
      (¬noise → sync → ¬counted → exec (.edge t) s = exec (.edgeSyncRej w) s1) ∧
      (¬noise → ¬sync → chan → exec (.edge t) s = exec (.edgeChan w) s1) ∧
      (¬noise → ¬sync → ¬chan → exec (.edge t) s = exec (.edgeGap w) s1))

/-- The classes of a width (R64): the first condition that holds, in the order of the rule, names the class; under a
legal configuration no two of the three conditions hold together; with REFCFG the classes are the ranges the rule
lists. -/
def Obligations.WidthClasses : Prop :=
  (∀ (c : Cfg) (w : Stamp),
    let noise := w.toNat < c.ppmNoiseMin ∨ c.ppmAbsMax < w.toNat
    let sync := c.ppmSyncMin < w.toNat ∧ w.toNat < c.ppmSyncMax
    let chan := c.ppmChMin ≤ w.toNat ∧ w.toNat ≤ c.ppmChMax
    (c.classify w = .noise ↔ noise) ∧ (c.classify w = .sync ↔ ¬noise ∧ sync) ∧
    (c.classify w = .chan ↔ ¬noise ∧ ¬sync ∧ chan) ∧ (c.classify w = .gap ↔ ¬noise ∧ ¬sync ∧ ¬chan) ∧
    (c.Legal → ¬(noise ∧ sync) ∧ ¬(noise ∧ chan) ∧ ¬(sync ∧ chan))) ∧
  (∀ w : Stamp,
    (refcfg.classify w = .noise ↔ w.toNat ≤ 299 ∨ 50001 ≤ w.toNat) ∧
    (refcfg.classify w = .chan ↔ 800 ≤ w.toNat ∧ w.toNat ≤ 2200) ∧
    (refcfg.classify w = .sync ↔ 3001 ≤ w.toNat ∧ w.toNat ≤ 29999) ∧
    (refcfg.classify w = .gap ↔ (300 ≤ w.toNat ∧ w.toNat ≤ 799) ∨ (2201 ≤ w.toNat ∧ w.toNat ≤ 3000) ∨
      (30000 ≤ w.toNat ∧ w.toNat ≤ 50000)))

/-! ### RESET, RXPUSH, STEP.RSVD -/

/-- After RESET(psel), from any state, every element has the value of R33. -/
def Obligations.ResetGivesResetValues : Prop :=
  ∀ (psel : Psel) (s : State), ∃ t, exec (.reset psel) s = .next t ∧
    (∀ i : Fin 16, t.ch[i] = 1500) ∧ t.psel = psel ∧ (∀ i : Fin 64, t.buf[i] = 0) ∧ t.idx = 0 ∧ t.expLen = 0 ∧
    t.lastByteMs = 0 ∧ t.lastFrameMs = 0 ∧ t.lastEdgeUs = 0 ∧ (∀ i : Fin 16, t.pw[i] = 0 ∧ t.lat[i] = 0) ∧
    t.ppmIdx = 0 ∧ t.latN = 0 ∧ t.fc = false ∧ t.missed = 0 ∧ t.ppmLastFrameMs = 0 ∧
    (t.ibusInited = true ↔ psel = s.cfg.pselIbus) ∧ t.rxq = [] ∧ t.time = 0

/-- What RESET(psel) leaves, the model's choice (log entries 1, 2, 4, 6, 7): the configuration, the events and answers
the environment still holds and the event log stay, and no result is held. -/
def Obligations.ResetLeavesEnvironmentAlone : Prop :=
  ∀ (psel : Psel) (s : State), ∃ t, exec (.reset psel) s = .next t ∧
    t.cfg = s.cfg ∧ t.inbox = s.inbox ∧ t.ibusAns = s.ibusAns ∧ t.ibusCalls = s.ibusCalls ∧ t.log = s.log ∧
    t.out = .none

/-- RXPUSH(b) appends the byte at the tail of the queue and changes nothing else (R44). -/
def Obligations.RxpushAppends : Prop :=
  ∀ (b : Byte) (s : State), exec (.rxpush b) s = .next { s with rxq := s.rxq ++ [b] }

/-- The queue is never popped under PPM, IBUS or the reserved code, by a STEP or by the arms themselves (R44). -/
def Obligations.QueueNotPoppedWhenDormant : Prop :=
  ∀ (t : Nat) (now : Stamp) (s s' : State),
    (s.cfg.proto s.psel = .ppm ∨ s.cfg.proto s.psel = .ibus ∨ s.cfg.proto s.psel = .rsvd →
      exec (.step t) s = .next s' → s'.rxq = s.rxq) ∧
    (exec (.stepPpm now) s = .next s' → s'.rxq = s.rxq) ∧
    (exec .stepIbus s = .next s' → s'.rxq = s.rxq) ∧
    (exec .stepRsvd s = .next s' → s'.rxq = s.rxq)

/-- The reserved arm returns 0 and changes no state; under the reserved code neither does STEP or EDGE, but for the
platform's time (R93, R63; the time is the model's choice, log entry 5). -/
def Obligations.ReservedSelectorIsInert : Prop :=
  ∀ s : State,
    exec .stepRsvd s = .next { s with out := .stepOk false } ∧
    (s.cfg.proto s.psel = .rsvd → ∀ t,
      exec (.step t) s = .next { s with time := t, out := .stepOk false } ∧
      exec (.edge t) s = .next { s with time := t })

/-! ### NORM and UNPACK11LE -/

/-- SCALE(raw, lo, hi) for `lo < hi` returns the clamped linear map of R100, and nothing else changes; for other
operands, which R100 leaves out, it completes with the free value of log entry 10. -/
def Obligations.ScaleReturnsLinearMap : Prop :=
  ∀ (raw lo hi : Nat) (s : State),
    let c := if raw < lo then lo else if hi < raw then hi else raw
    (lo < hi → exec (.scale raw lo hi) s =
      .next { s with out := .value (1000 + ((c - lo) * 2000 + (hi - lo)) / (2 * (hi - lo))) }) ∧
    (hi ≤ lo → exec (.scale raw lo hi) s = .next { s with out := .value (Config.scaleUnstated raw lo hi) })

/-- The five normalisers return their closed forms, for every operand, with nothing lost to the 16-bit width (R101 to
R105). -/
def Obligations.NormalisersReturnClosedForms : Prop :=
  ∀ s : State,
    (∀ raw : BitVec 11, exec (.normS11 raw) s =
      .next { s with out := .value (1000 + ((max 172 (min 1811 raw.toNat) - 172) * 2000 + 1639) / 3278) }) ∧
    (∀ raw : BitVec 11, exec (.normU11 raw) s =
      .next { s with out := .value (1000 + (raw.toNat * 2000 + 2047) / 4094) }) ∧
    (∀ raw : BitVec 10, exec (.normU10 raw) s =
      .next { s with out := .value (1000 + (raw.toNat * 2000 + 1023) / 2046) }) ∧
    (∀ w : Half, exec (.normPpm w) s = .next { s with out := .value (max 1000 (min 2000 w.toNat)) }) ∧
    (∀ v : Half, exec (.normIbus v) s = .next { s with out := .value (max 1000 (min 2000 v.toNat)) })

/-- SCALE is monotone, maps `lo` to 1000 and `hi` to 2000, stays between, and maps the midpoint pair of each range in
use to 1500 (R106). -/
def Obligations.ScaleIsMonotoneOntoRange : Prop :=
  (∀ lo hi : Nat, lo < hi →
    (∀ a b, a ≤ b → scale a lo hi ≤ scale b lo hi) ∧ scale lo lo hi = 1000 ∧ scale hi lo hi = 2000 ∧
    ∀ a, 1000 ≤ scale a lo hi ∧ scale a lo hi ≤ 2000) ∧
  ∀ p ∈ [(172, 1811), (0, 2047), (0, 1023)],
    scale (p.1 + (p.2 - p.1) / 2) p.1 p.2 = 1500 ∧ scale (p.1 + (p.2 - p.1) / 2 + 1) p.1 p.2 = 1500

/-- For the three ranges in use SCALE rounds to nearest: twice the distance, in units of `hi - lo`, is strictly below
one unit, so no tie occurs (R100, R108). -/
def Obligations.ScaleRoundsToNearestWithoutTies : Prop :=
  ∀ p ∈ [(172, 1811), (0, 2047), (0, 1023)], ∀ raw : Nat, p.1 ≤ raw → raw ≤ p.2 →
    let d := p.2 - p.1
    2 * (d * (scale raw p.1 p.2 - 1000)) < 2 * ((raw - p.1) * 1000) + d ∧
    2 * ((raw - p.1) * 1000) < 2 * (d * (scale raw p.1 p.2 - 1000)) + d

/-- Every value a normaliser gives lies in [1000, 2000] (R107). -/
def Obligations.NormalisersStayInRange : Prop :=
  (∀ raw : BitVec 11, InRange (normS11 raw)) ∧ (∀ raw : BitVec 11, InRange (normU11 raw)) ∧
  (∀ raw : BitVec 10, InRange (normU10 raw)) ∧ (∀ w : Half, InRange (normPpm w)) ∧ ∀ v : Half, InRange (normIbus v)

/-- UNPACK11LE(p, k) returns the 11-bit number whose bit j is bit 11k+j of the payload, bit m of the payload being bit
m mod 8 of byte m / 8 (R67). -/
def Obligations.UnpackReturnsBitSlice : Prop :=
  ∀ (p : Vector Byte 22) (k : BitVec 4) (s : State), ∃ n,
    exec (.unpack11le p k) s = .next { s with out := .value n } ∧ n < 2 ^ 11 ∧
    ∀ j : Fin 11, n.testBit j.val =
      (p.toList.getD ((11 * k.toNat + j.val) / 8) 0).getLsbD ((11 * k.toNat + j.val) % 8)

/-- The sixteen explicit formulas of R67, each masked with 0x7FF. -/
def Obligations.UnpackExplicitFormulas : Prop :=
  ∀ p : Vector Byte 22,
    let b (i : Fin 22) : Nat := p[i].toNat
    (unpack11le p 0).toNat = (b 0 ||| b 1 <<< 8) &&& 0x7FF ∧
    (unpack11le p 1).toNat = (b 1 >>> 3 ||| b 2 <<< 5) &&& 0x7FF ∧
    (unpack11le p 2).toNat = (b 2 >>> 6 ||| b 3 <<< 2 ||| b 4 <<< 10) &&& 0x7FF ∧
    (unpack11le p 3).toNat = (b 4 >>> 1 ||| b 5 <<< 7) &&& 0x7FF ∧
    (unpack11le p 4).toNat = (b 5 >>> 4 ||| b 6 <<< 4) &&& 0x7FF ∧
    (unpack11le p 5).toNat = (b 6 >>> 7 ||| b 7 <<< 1 ||| b 8 <<< 9) &&& 0x7FF ∧
    (unpack11le p 6).toNat = (b 8 >>> 2 ||| b 9 <<< 6) &&& 0x7FF ∧
    (unpack11le p 7).toNat = (b 9 >>> 5 ||| b 10 <<< 3) &&& 0x7FF ∧
    (unpack11le p 8).toNat = (b 11 ||| b 12 <<< 8) &&& 0x7FF ∧
    (unpack11le p 9).toNat = (b 12 >>> 3 ||| b 13 <<< 5) &&& 0x7FF ∧
    (unpack11le p 10).toNat = (b 13 >>> 6 ||| b 14 <<< 2 ||| b 15 <<< 10) &&& 0x7FF ∧
    (unpack11le p 11).toNat = (b 15 >>> 1 ||| b 16 <<< 7) &&& 0x7FF ∧
    (unpack11le p 12).toNat = (b 16 >>> 4 ||| b 17 <<< 4) &&& 0x7FF ∧
    (unpack11le p 13).toNat = (b 17 >>> 7 ||| b 18 <<< 1 ||| b 19 <<< 9) &&& 0x7FF ∧
    (unpack11le p 14).toNat = (b 19 >>> 2 ||| b 20 <<< 6) &&& 0x7FF ∧
    (unpack11le p 15).toNat = (b 20 >>> 5 ||| b 21 <<< 3) &&& 0x7FF

/-- Packing sixteen raw values into 22 bytes and unpacking them are inverse, both ways: the fields use exactly the 176
bits (R67, R75). -/
def Obligations.UnpackInvertsPack : Prop :=
  (∀ (raw : Vector (BitVec 11) 16) (k : Fin 16), unpack11le (pack11le raw) (BitVec.ofFin k) = raw[k]) ∧
  ∀ p : Vector Byte 22, pack11le (Vector.ofFn fun k => unpack11le p (BitVec.ofFin k)) = p

/-! ### The framing pattern -/

/-- The inter-byte timeout, for every popped byte before anything else (R112): strict, only with a partial frame, the
old index in the label, and `last_byte_ms` written in every case. -/
def Obligations.GapCheckDropsStaleFrame : Prop :=
  ∀ (limit : Nat) (now : Stamp) (s : State),
    (s.idx ≠ 0 → limit < (now - s.lastByteMs).toNat →
      gapCheck limit now s = { s with idx := 0, lastByteMs := now, log := s.log ++ [.eGap s.idx] }) ∧
    (s.idx = 0 ∨ (now - s.lastByteMs).toNat ≤ limit → gapCheck limit now s = { s with lastByteMs := now })

/-- With an empty queue a byte-stream STEP returns 0 and changes nothing but the event log, which gets E_LOS when the
overall timeout has passed (R121, R118). -/
def Obligations.EmptyQueueStepChangesNothing : Prop :=
  ∀ (now : Stamp) (s : State), s.rxq = [] →
    let idle (limit : Nat) : State :=
      { s with out := .stepOk false
               log := if limit < (now - s.lastFrameMs).toNat then s.log ++ [.eLos] else s.log }
    exec (.stepSbus now) s = .next (idle s.cfg.sbusFrameTo) ∧
    exec (.stepCrsf now) s = .next (idle s.cfg.crsfFrameTo) ∧
    exec (.stepDsm2 now) s = .next (idle s.cfg.dsmFrameTo) ∧
    exec (.stepDsmx now) s = .next (idle s.cfg.dsmFrameTo) ∧
    exec (.stepFport now) s = .next (idle s.cfg.fportFrameTo)

/-- FRAMER.STEP with a protocol's policy is that protocol's STEP, whatever the queue holds (R121, R125, R135, R145,
R155). Under CRSF for a legal configuration and an `exp_len` that is not 1, as in every reachable state. -/
def Obligations.FramerStepIsProtocolStep : Prop :=
  ∀ (now : Stamp) (s : State),
    exec (.framerStep .sbus now) s = exec (.stepSbus now) s ∧
    exec (.framerStep .dsm2 now) s = exec (.stepDsm2 now) s ∧
    exec (.framerStep .dsmx now) s = exec (.stepDsmx now) s ∧
    exec (.framerStep .fport now) s = exec (.stepFport now) s ∧
    (s.cfg.Legal → s.expLen ≠ 1 → exec (.framerStep .crsf now) s = exec (.stepCrsf now) s)

/-- Every byte-stream STEP, and FRAMER.STEP with each policy, completes from a state whose fill index is below the
frame length in force, and does only what R94, R111, R119 and R35 allow. -/
def Obligations.ByteStreamStepsComplete : Prop :=
  ∀ (now : Stamp) (s : State), s.cfg.Legal →
    (s.idx.toNat < 25 →
      (∃ t, exec (.stepSbus now) s = .next t ∧ t.idx.toNat < 25 ∧ ByteStreamStep now s t) ∧
      ∃ t, exec (.framerStep .sbus now) s = .next t ∧ ByteStreamStep now s t) ∧
    (CrsfCoherent s →
      (∃ t, exec (.stepCrsf now) s = .next t ∧ CrsfCoherent t ∧ ByteStreamStep now s t) ∧
      ∃ t, exec (.framerStep .crsf now) s = .next t ∧ ByteStreamStep now s t) ∧
    (s.idx.toNat < 16 →
      (∃ t, exec (.stepDsm2 now) s = .next t ∧ t.idx.toNat < 16 ∧ ByteStreamStep now s t) ∧
      (∃ t, exec (.stepDsmx now) s = .next t ∧ t.idx.toNat < 16 ∧ ByteStreamStep now s t) ∧
      (∃ t, exec (.framerStep .dsm2 now) s = .next t ∧ ByteStreamStep now s t) ∧
      ∃ t, exec (.framerStep .dsmx now) s = .next t ∧ ByteStreamStep now s t) ∧
    (s.idx.toNat < 29 →
      (∃ t, exec (.stepFport now) s = .next t ∧ t.idx.toNat < 29 ∧ ByteStreamStep now s t) ∧
      ∃ t, exec (.framerStep .fport now) s = .next t ∧ ByteStreamStep now s t)

/-- A byte-stream STEP takes the queue byte by byte (R125, R135, R145, R155): it gives the oldest byte to the protocol's
BYTE operation, with the rest left queued; if that accepts, the STEP ends with 1 and the rest stays queued (R119); else it
goes on from the state the byte left, after a rejected frame too (R117). With EmptyQueueStepChangesNothing this says what
a STEP does with any queue, and so what a frame split over two STEPs does. -/
def Obligations.ByteStreamStepTakesBytesInOrder : Prop :=
  ∀ (b : Byte) (q : List Byte) (now : Stamp) (s : State), s.rxq = b :: q →
    let takes (byte step : Instr) : Prop := ∀ t, exec byte { s with rxq := q } = .next t →
      t.rxq = q ∧
      (t.out = .verdict .accept → exec step s = .next { t with out := .stepOk true }) ∧
      (t.out ≠ .verdict .accept → exec step s = exec step t)
    takes (.sbusByte b now) (.stepSbus now) ∧ takes (.crsfByte b now) (.stepCrsf now) ∧
    takes (.dsmByte b now .ten) (.stepDsm2 now) ∧ takes (.dsmByte b now .eleven) (.stepDsmx now) ∧
    takes (.fportByte b now) (.stepFport now)

/-- A partial frame that has gone stale is no obstacle (R95, R112): whatever the framer held, after a gap longer than the
inter-byte timeout a whole valid frame is accepted in one STEP, the gap being labelled with the old index. -/
def Obligations.StaleFrameThenGoodFrameAccepted : Prop :=
  ∀ (now : Stamp) (s : State) (p : Vector Byte 22) (f : Vector Byte 16) (flags footer x y : Byte)
    (more : List Byte), s.cfg.Legal → s.idx ≠ 0 →
    let gap := (now - s.lastByteMs).toNat
    let ok (i : Instr) : Prop := ∃ t, exec i s = .next t ∧ t.out = .stepOk true ∧ t.rxq = more ∧
      t.lastFrameMs = now ∧ t.log = s.log ++ [.eGap s.idx]
    (s.cfg.sbusByteTo < gap → s.rxq = 0x0F :: (p.toList ++ flags :: footer :: more) → footer ∈ s.cfg.sbusFooters →
      flags &&& (s.cfg.sbusLostMask ||| s.cfg.sbusFsMask) = 0 → ok (.stepSbus now)) ∧
    (s.cfg.crsfByteTo < gap → s.rxq = s.cfg.crsfSync :: 24 :: s.cfg.crsfTypeRc ::
      (p.toList ++ (24 :: s.cfg.crsfTypeRc :: p.toList).foldl (· ^^^ ·) 0 :: more) → ok (.stepCrsf now)) ∧
    (s.cfg.dsmByteTo < gap → s.rxq = f.toList ++ more → ok (.stepDsm2 now) ∧ ok (.stepDsmx now)) ∧
    (s.cfg.fportByteTo < gap → s.rxq = s.cfg.fportHdr :: s.cfg.fportLenByte :: s.cfg.fportTypeRc ::
      (p.toList ++ x :: y :: (p.toList ++ [x, y]).foldl (· ^^^ ·) 0 :: s.cfg.fportHdr :: more) → ok (.stepFport now))

/-- E_LOS is raised by a byte-stream STEP exactly when it returns 0 with the overall timeout expired, and then last; an
accepted frame is never turned into a failure by it (R118). -/
def Obligations.LossOfSignalOnlyLabelsFailure : Prop :=
  ∀ (now : Stamp) (s t : State),
    let labels (limit : Nat) : Prop := ∃ d, .eLos ∉ d ∧
      t.log = s.log ++ d ++
        (if t.out = .stepOk false ∧ limit < (now - s.lastFrameMs).toNat then [.eLos] else [])
    (exec (.stepSbus now) s = .next t → labels s.cfg.sbusFrameTo) ∧
    (exec (.stepCrsf now) s = .next t → labels s.cfg.crsfFrameTo) ∧
    (exec (.stepDsm2 now) s = .next t → labels s.cfg.dsmFrameTo) ∧
    (exec (.stepDsmx now) s = .next t → labels s.cfg.dsmFrameTo) ∧
    (exec (.stepFport now) s = .next t → labels s.cfg.fportFrameTo)

/-! ### SBUS -/

/-- SBUS.FRAME (R127): footer first, then the flag bits; on acceptance all sixteen channels and the frame stamp. -/
def Obligations.SbusFrameChecksThenWrites : Prop :=
  ∀ (now : Stamp) (s : State),
    let flagged := s.buf[23] &&& (s.cfg.sbusLostMask ||| s.cfg.sbusFsMask) ≠ 0
    (s.buf[24] ∉ s.cfg.sbusFooters → exec (.sbusFrame now) s =
      .next { s with log := s.log ++ [.eFooter s.buf[24]], out := .verdict .reject }) ∧
    (s.buf[24] ∈ s.cfg.sbusFooters → flagged → exec (.sbusFrame now) s =
      .next { s with log := s.log ++ [.eFlags s.buf[23]], out := .verdict .reject }) ∧
    (s.buf[24] ∈ s.cfg.sbusFooters → ¬flagged → ∃ t, exec (.sbusFrame now) s = .next t ∧
      (∀ k : Fin 16, t.ch[k] =
        normS11 (unpack11le (Vector.ofFn fun i : Fin 22 => s.buf[1 + i.val]) (BitVec.ofFin k))) ∧
      t = { s with ch := t.ch, lastFrameMs := now, out := .verdict .accept })

/-- SBUS.BYTE (R126), after the inter-byte check of R112: a byte that is no header is discarded in sync search; any
other byte is stored; the 25th completes the frame. -/
def Obligations.SbusByteAccumulates : Prop :=
  ∀ (b : Byte) (now : Stamp) (s : State),
    let g : State := if s.idx ≠ 0 ∧ s.cfg.sbusByteTo < (now - s.lastByteMs).toNat
      then { s with idx := 0, lastByteMs := now, log := s.log ++ [.eGap s.idx] }
      else { s with lastByteMs := now }
    (g.idx = 0 → b ≠ 0x0F → exec (.sbusByte b now) s =
      .next { g with log := g.log ++ [.eSync b], out := .verdict .none }) ∧
    (∀ h : g.idx.toNat < 64, (g.idx = 0 → b = 0x0F) → g.idx ≠ 24 → exec (.sbusByte b now) s =
      .next { g with buf := g.buf.set g.idx.toNat b h, idx := g.idx + 1, out := .verdict .none }) ∧
    (g.idx = 24 → exec (.sbusByte b now) s = exec (.sbusFrame now) { g with buf := g.buf.set 24 b, idx := 0 })

/-- A whole SBUS frame queued in sync search (R123, R125): with a legal footer and clear flag bits the STEP returns 1
with the sixteen channels of the payload and leaves the bytes behind the frame queued; with a wrong footer or a flag
bit set, the label being the footer's before the flags', the STEP goes on with the bytes behind the frame, in sync search
and with the channels and the frame stamp as before (R117), so with nothing behind it returns 0. -/
def Obligations.SbusFrameInOneStep : Prop :=
  ∀ (now : Stamp) (s : State) (p : Vector Byte 22) (flags footer : Byte) (more : List Byte),
    s.idx = 0 → s.rxq = 0x0F :: (p.toList ++ flags :: footer :: more) →
    let good := footer ∈ s.cfg.sbusFooters ∧ flags &&& (s.cfg.sbusLostMask ||| s.cfg.sbusFsMask) = 0
    let full := { s with buf := frameInto s.buf (0x0F :: (p.toList ++ [flags, footer])), lastByteMs := now, rxq := more }
    let label := if footer ∈ s.cfg.sbusFooters then Label.eFlags flags else .eFooter footer
    (good → ∃ t, exec (.stepSbus now) s = .next t ∧
      (∀ k : Fin 16, t.ch[k] = normS11 (unpack11le p (BitVec.ofFin k))) ∧
      t = { full with ch := t.ch, lastFrameMs := now, out := .stepOk true }) ∧
    (¬good → exec (.stepSbus now) s = exec (.stepSbus now) { full with log := s.log ++ [label] }) ∧
    (¬good → more = [] → exec (.stepSbus now) s =
      .next { full with
        out := .stepOk false
        log := s.log ++ label :: (if s.cfg.sbusFrameTo < (now - s.lastFrameMs).toNat then [.eLos] else []) })

/-! ### CRSF -/

/-- CRSF.FRAME (R137, R138): the exclusive or of bytes 1 to L against byte L+1, then the type and the length 24; on
acceptance all sixteen channels and the frame stamp. -/
def Obligations.CrsfFrameChecksThenWrites : Prop :=
  ∀ (now : Stamp) (s : State), let len := s.buf[1].toNat
    let sum : Byte := ((s.buf.toList.drop 1).take len).foldl (· ^^^ ·) 0
    (∀ h : len + 1 < 64,
      (sum ≠ s.buf[len + 1] → exec (.crsfFrame now) s =
        .next { s with log := s.log ++ [.eXor], out := .verdict .reject }) ∧
      (sum = s.buf[len + 1] → (s.buf[2] ≠ s.cfg.crsfTypeRc ∨ len ≠ 24) → exec (.crsfFrame now) s =
        .next { s with log := s.log ++ [.eType s.buf[2] (some s.buf[1])], out := .verdict .reject }) ∧
      (sum = s.buf[len + 1] → s.buf[2] = s.cfg.crsfTypeRc → len = 24 → ∃ t, exec (.crsfFrame now) s = .next t ∧
        (∀ k : Fin 16, t.ch[k] =
          normS11 (unpack11le (Vector.ofFn fun i : Fin 22 => s.buf[3 + i.val]) (BitVec.ofFin k))) ∧
        t = { s with ch := t.ch, lastFrameMs := now, out := .verdict .accept }))

/-- CRSF.BYTE (R136), after the inter-byte check: sync byte, length byte, then bytes up to `exp_len`. -/
def Obligations.CrsfByteAccumulates : Prop :=
  ∀ (b : Byte) (now : Stamp) (s : State),
    let g : State := if s.idx ≠ 0 ∧ s.cfg.crsfByteTo < (now - s.lastByteMs).toNat
      then { s with idx := 0, lastByteMs := now, log := s.log ++ [.eGap s.idx] }
      else { s with lastByteMs := now }
    (g.idx = 0 → b ≠ s.cfg.crsfSync → exec (.crsfByte b now) s =
      .next { g with log := g.log ++ [.eSync b], out := .verdict .none }) ∧
    (g.idx = 0 → b = s.cfg.crsfSync → exec (.crsfByte b now) s =
      .next { g with buf := g.buf.set 0 b, idx := 1, out := .verdict .none }) ∧
    (g.idx = 1 → b.toNat < s.cfg.crsfLenMin ∨ s.cfg.crsfLenMax < b.toNat → exec (.crsfByte b now) s =
      .next { g with log := g.log ++ [.eLen b], idx := 0, out := .verdict .none }) ∧
    (g.idx = 1 → s.cfg.crsfLenMin ≤ b.toNat → b.toNat ≤ s.cfg.crsfLenMax → exec (.crsfByte b now) s =
      .next { g with buf := g.buf.set 1 b, idx := 2, expLen := BitVec.ofNat 7 (b.toNat + 2)
                     out := .verdict .none }) ∧
    (∀ h : g.idx.toNat < 64, 2 ≤ g.idx.toNat →
      (g.idx + 1 ≠ g.expLen → exec (.crsfByte b now) s =
        .next { g with buf := g.buf.set g.idx.toNat b h, idx := g.idx + 1, out := .verdict .none }) ∧
      (g.idx + 1 = g.expLen → exec (.crsfByte b now) s =
        exec (.crsfFrame now) { g with buf := g.buf.set g.idx.toNat b h, idx := 0 }))

/-- A whole RC-channels CRSF frame queued in sync search, and the same frame with one payload byte changed (R139): the
first is accepted with the payload's sixteen channels, the second, with the same checksum byte, is rejected with E_XOR,
and with the checksum recomputed it is accepted again, being the first with another payload. A frame of another type or
length, with its right checksum, is swallowed whole with E_TYPE (R135, R137). Rejected or swallowed, the STEP goes on with
the bytes behind it, in sync search and with the channels and the frame stamp as before (R117); with nothing behind the
rejected frame it returns 0. -/
def Obligations.CrsfFrameInOneStep : Prop :=
  (∀ (now : Stamp) (s : State) (p q : Vector Byte 22) (more : List Byte), s.cfg.Legal → s.idx = 0 →
    let sum (v : Vector Byte 22) : Byte := (24 :: s.cfg.crsfTypeRc :: v.toList).foldl (· ^^^ ·) 0
    let bytes (ck : Byte) := s.cfg.crsfSync :: 24 :: s.cfg.crsfTypeRc :: (p.toList ++ [ck])
    let full (ck : Byte) := { s with buf := frameInto s.buf (bytes ck), expLen := 26, lastByteMs := now, rxq := more }
    (s.rxq = bytes (sum p) ++ more → ∃ t, exec (.stepCrsf now) s = .next t ∧
      (∀ k : Fin 16, t.ch[k] = normS11 (unpack11le p (BitVec.ofFin k))) ∧
      t = { full (sum p) with ch := t.ch, lastFrameMs := now, out := .stepOk true }) ∧
    ((∃ (i : Fin 22) (b : Byte), b ≠ p[i] ∧ q = p.set i.val b) → s.rxq = bytes (sum q) ++ more →
      exec (.stepCrsf now) s = exec (.stepCrsf now) { full (sum q) with log := s.log ++ [.eXor] } ∧
      (more = [] → exec (.stepCrsf now) s =
        .next { full (sum q) with
          out := .stepOk false
          log := s.log ++ .eXor :: (if s.cfg.crsfFrameTo < (now - s.lastFrameMs).toNat then [.eLos] else []) }))) ∧
  ∀ (now : Stamp) (s : State) (type : Byte) (body more : List Byte), s.cfg.Legal → s.idx = 0 →
    let len := body.length + 2
    let sum : Byte := (BitVec.ofNat 8 len :: type :: body).foldl (· ^^^ ·) 0
    let bytes := s.cfg.crsfSync :: BitVec.ofNat 8 len :: type :: (body ++ [sum])
    s.cfg.crsfLenMin ≤ len → len ≤ s.cfg.crsfLenMax → (type ≠ s.cfg.crsfTypeRc ∨ len ≠ 24) → s.rxq = bytes ++ more →
    exec (.stepCrsf now) s = exec (.stepCrsf now)
      { s with
        buf := frameInto s.buf bytes, expLen := BitVec.ofNat 7 (len + 2), lastByteMs := now, rxq := more
        log := s.log ++ [.eType type (some (BitVec.ofNat 8 len))] }

/-! ### DSM2 / DSMX -/

/-- DSM.PAIR (R148): 0xFFFF is skipped; else the channel the index bits name, and only that one, takes the rescaled
value; the bits above the index do not matter. -/
def Obligations.DsmPairWritesNamedChannel : Prop :=
  ∀ (v : Half) (s : State),
    (v = 0xFFFF → ∀ bits, exec (.dsmPair v bits) s = .next s) ∧
    (v ≠ 0xFFFF → ∃ t, exec (.dsmPair v .eleven) s = .next t ∧ t = { s with ch := t.ch } ∧
      ∀ i : Fin 16, t.ch[i] =
        if i.val = v.toNat / 2048 % 16 then normU11 (BitVec.ofNat 11 (v.toNat % 2048)) else s.ch[i]) ∧
    (v ≠ 0xFFFF → ∃ t, exec (.dsmPair v .ten) s = .next t ∧ t = { s with ch := t.ch } ∧
      ∀ i : Fin 16, t.ch[i] =
        if i.val = v.toNat / 1024 % 16 then normU10 (BitVec.ofNat 10 (v.toNat % 1024)) else s.ch[i])

/-- DSM.FRAME (R147, R149): always accepted; the channels are those of the seven slots in wire order, the big-endian
pairs from byte 2 on, so a later slot wins and slot 0 is ignored; a channel that no slot names keeps its value. -/
def Obligations.DsmFrameWritesSlotsInOrder : Prop :=
  ∀ (now : Stamp) (bits : Width) (s : State),
    let slot (i : Fin 7) : Half := BitVec.ofNat 16 (s.buf[2 * i.val + 2].toNat * 256 + s.buf[2 * i.val + 3].toNat)
    let chan (v : Half) : Nat := match bits with | .eleven => v.toNat / 2048 % 16 | .ten => v.toNat / 1024 % 16
    ∃ t, exec (.dsmFrame now bits) s = .next t ∧
      t = { s with ch := t.ch, lastFrameMs := now, out := .verdict .accept } ∧
      ∀ k : Fin 16,
        ((∀ i, slot i = 0xFFFF ∨ chan (slot i) ≠ k.val) → t.ch[k] = s.ch[k]) ∧
        (∀ i, slot i ≠ 0xFFFF → chan (slot i) = k.val →
          (∀ j, i < j → slot j = 0xFFFF ∨ chan (slot j) ≠ k.val) →
          t.ch[k] = match bits with
            | .eleven => normU11 (BitVec.ofNat 11 ((slot i).toNat % 2048))
            | .ten => normU10 (BitVec.ofNat 10 ((slot i).toNat % 1024)))

/-- DSM.BYTE (R146), after the inter-byte check: every byte is stored, the sixteenth completes the frame. -/
def Obligations.DsmByteAccumulates : Prop :=
  ∀ (b : Byte) (now : Stamp) (bits : Width) (s : State),
    let g : State := if s.idx ≠ 0 ∧ s.cfg.dsmByteTo < (now - s.lastByteMs).toNat
      then { s with idx := 0, lastByteMs := now, log := s.log ++ [.eGap s.idx] }
      else { s with lastByteMs := now }
    (∀ h : g.idx.toNat < 64, g.idx ≠ 15 → exec (.dsmByte b now bits) s =
      .next { g with buf := g.buf.set g.idx.toNat b h, idx := g.idx + 1, out := .verdict .none }) ∧
    (g.idx = 15 → exec (.dsmByte b now bits) s =
      exec (.dsmFrame now bits) { g with buf := g.buf.set 15 b, idx := 0 })

/-- Any sixteen bytes queued in sync search are a frame (R145): the STEP returns 1, having run DSM.FRAME on them, and
leaves the bytes behind queued. -/
def Obligations.DsmAnySixteenBytesAreAFrame : Prop :=
  ∀ (now : Stamp) (s : State) (f : Vector Byte 16) (more : List Byte), s.idx = 0 → s.rxq = f.toList ++ more →
    let full := { s with buf := frameInto s.buf f.toList, lastByteMs := now, rxq := more }
    (∃ t, exec (.stepDsm2 now) s = .next { t with out := .stepOk true } ∧
      exec (.dsmFrame now .ten) full = .next t) ∧
    (∃ t, exec (.stepDsmx now) s = .next { t with out := .stepOk true } ∧
      exec (.dsmFrame now .eleven) full = .next t)

/-! ### FPORT -/

/-- FPORT.FRAME (R157, R158): terminator, then type, then the exclusive or of the 24 payload bytes; on acceptance all
sixteen channels and the frame stamp. -/
def Obligations.FportFrameChecksThenWrites : Prop :=
  ∀ (now : Stamp) (s : State),
    let sum : Byte := ((s.buf.toList.drop 3).take 24).foldl (· ^^^ ·) 0
    (s.buf[28] ≠ s.cfg.fportHdr → exec (.fportFrame now) s =
      .next { s with log := s.log ++ [.eTerm s.buf[28]], out := .verdict .reject }) ∧
    (s.buf[28] = s.cfg.fportHdr → s.buf[2] ≠ s.cfg.fportTypeRc → exec (.fportFrame now) s =
      .next { s with log := s.log ++ [.eType s.buf[2] none], out := .verdict .reject }) ∧
    (s.buf[28] = s.cfg.fportHdr → s.buf[2] = s.cfg.fportTypeRc → sum ≠ s.buf[27] → exec (.fportFrame now) s =
      .next { s with log := s.log ++ [.eXor], out := .verdict .reject }) ∧
    (s.buf[28] = s.cfg.fportHdr → s.buf[2] = s.cfg.fportTypeRc → sum = s.buf[27] →
      ∃ t, exec (.fportFrame now) s = .next t ∧
      (∀ k : Fin 16, t.ch[k] =
        normS11 (unpack11le (Vector.ofFn fun i : Fin 22 => s.buf[3 + i.val]) (BitVec.ofFin k))) ∧
      t = { s with ch := t.ch, lastFrameMs := now, out := .verdict .accept })

/-- FPORT.BYTE (R156), after the inter-byte check: header, the one length byte, then bytes up to 29; a refused length
byte is discarded even when it equals the header. -/
def Obligations.FportByteAccumulates : Prop :=
  ∀ (b : Byte) (now : Stamp) (s : State),
    let g : State := if s.idx ≠ 0 ∧ s.cfg.fportByteTo < (now - s.lastByteMs).toNat
      then { s with idx := 0, lastByteMs := now, log := s.log ++ [.eGap s.idx] }
      else { s with lastByteMs := now }
    (g.idx = 0 → b ≠ s.cfg.fportHdr → exec (.fportByte b now) s =
      .next { g with log := g.log ++ [.eSync b], out := .verdict .none }) ∧
    (g.idx = 0 → b = s.cfg.fportHdr → exec (.fportByte b now) s =
      .next { g with buf := g.buf.set 0 b, idx := 1, out := .verdict .none }) ∧
    (g.idx = 1 → b ≠ s.cfg.fportLenByte → exec (.fportByte b now) s =
      .next { g with log := g.log ++ [.eLen b], idx := 0, out := .verdict .none }) ∧
    (g.idx = 1 → b = s.cfg.fportLenByte → exec (.fportByte b now) s =
      .next { g with buf := g.buf.set 1 b, idx := 2, expLen := 29, out := .verdict .none }) ∧
    (∀ h : g.idx.toNat < 64, 2 ≤ g.idx.toNat → g.idx ≠ 28 → exec (.fportByte b now) s =
      .next { g with buf := g.buf.set g.idx.toNat b h, idx := g.idx + 1, out := .verdict .none }) ∧
    (g.idx = 28 → exec (.fportByte b now) s =
      exec (.fportFrame now) { g with buf := g.buf.set 28 b, idx := 0 })

/-- A whole FPORT frame queued in sync search (R123, R155): with the header value again at its end, the RC-channels type
and the exclusive or of its 24 payload bytes as checksum it is accepted with the sixteen channels of the first 22; else it
is rejected, with the label of the terminator before the type's before the checksum's, and the STEP goes on with the bytes
behind it, in sync search and with the channels and the frame stamp as before (R117), so with nothing behind it the STEP
returns 0. -/
def Obligations.FportFrameInOneStep : Prop :=
  ∀ (now : Stamp) (s : State) (type : Byte) (p : Vector Byte 22) (x y ck term : Byte) (more : List Byte), s.idx = 0 →
    let sum : Byte := (p.toList ++ [x, y]).foldl (· ^^^ ·) 0
    let bytes := s.cfg.fportHdr :: s.cfg.fportLenByte :: type :: (p.toList ++ [x, y, ck, term])
    let good := term = s.cfg.fportHdr ∧ type = s.cfg.fportTypeRc ∧ ck = sum
    let full := { s with buf := frameInto s.buf bytes, expLen := 29, lastByteMs := now, rxq := more }
    let label := if term ≠ s.cfg.fportHdr then Label.eTerm term
      else if type ≠ s.cfg.fportTypeRc then .eType type none else .eXor
    s.rxq = bytes ++ more →
    (good → ∃ t, exec (.stepFport now) s = .next t ∧
      (∀ k : Fin 16, t.ch[k] = normS11 (unpack11le p (BitVec.ofFin k))) ∧
      t = { full with ch := t.ch, lastFrameMs := now, out := .stepOk true }) ∧
    (¬good → exec (.stepFport now) s = exec (.stepFport now) { full with log := s.log ++ [label] }) ∧
    (¬good → more = [] → exec (.stepFport now) s =
      .next { full with
        out := .stepOk false
        log := s.log ++ label :: (if s.cfg.fportFrameTo < (now - s.lastFrameMs).toNat then [.eLos] else []) })

/-! ### PPM -/

/-- EDGE.NOISE and EDGE.GAP raise E_NOISE with the width and change no state (R167, R171). -/
def Obligations.NoiseAndGapOnlyLabel : Prop :=
  ∀ (w : Stamp) (s : State),
    exec (.edgeNoise w) s = .next { s with log := s.log ++ [.eNoise w] } ∧
    exec (.edgeGap w) s = .next { s with log := s.log ++ [.eNoise w] }

/-- EDGE.SYNC.ACC (R168): the count and the pulses are latched, the other latch entries kept, `fc` raised, `missed`
cleared, the frame stamped, the index reset. -/
def Obligations.SyncAcceptLatchesFrame : Prop :=
  ∀ (w tms : Stamp) (s : State),
    (s.ppmIdx.toNat ≤ 16 → ∃ t, exec (.edgeSyncAcc w tms) s = .next t ∧
      (∀ i : Fin 16, t.lat[i] = if i.val < s.ppmIdx.toNat then s.pw[i] else s.lat[i]) ∧
      t = { s with latN := s.ppmIdx, lat := t.lat, fc := true, missed := 0, ppmLastFrameMs := tms, ppmIdx := 0 })

/-- EDGE.SYNC.REJ (R169): E_COUNT with the count, `missed` up by one and never above 255, the index reset, nothing
else. -/
def Obligations.SyncRejectCountsMissed : Prop :=
  ∀ (w : Stamp) (s : State), ∃ t, exec (.edgeSyncRej w) s = .next t ∧
    t.missed.toNat = min (s.missed.toNat + 1) 255 ∧
    t = { s with log := s.log ++ [.eCount s.ppmIdx], missed := t.missed, ppmIdx := 0 }

/-- EDGE.CHAN (R170): the low 16 bits of the width are stored at the index, which advances; from 16 on the pulse is
dropped. -/
def Obligations.ChannelPulseIsStored : Prop :=
  ∀ (w : Stamp) (s : State),
    (∀ h : s.ppmIdx.toNat < 16, ∃ t, exec (.edgeChan w) s = .next t ∧
      t.ppmIdx.toNat = s.ppmIdx.toNat + 1 ∧
      t = { s with pw := s.pw.set s.ppmIdx.toNat (BitVec.ofNat 16 w.toNat) h, ppmIdx := t.ppmIdx }) ∧
    (16 ≤ s.ppmIdx.toNat → exec (.edgeChan w) s = .next s)

/-- STEP.PPM (R172; the info of E_COUNT is R191's): the three tests in order, a failing one
changing no state; else the critical section copies `lat[0..lat_n-1]`, saturated, and clears `fc`. -/
def Obligations.PpmPollDeliversLatchedFrame : Prop :=
  ∀ (now : Stamp) (s : State),
    let many := s.cfg.ppmMaxMissed < s.missed.toNat
    let late := s.cfg.ppmTimeoutMs < (now - s.ppmLastFrameMs).toNat
    (s.fc = false → exec (.stepPpm now) s = .next { s with out := .stepOk false }) ∧
    (s.fc = true → many → exec (.stepPpm now) s =
      .next { s with log := s.log ++ [.eCount s.ppmIdx], out := .stepOk false }) ∧
    (s.fc = true → ¬many → late → exec (.stepPpm now) s =
      .next { s with log := s.log ++ [.eLos], out := .stepOk false }) ∧
    (s.fc = true → ¬many → ¬late → s.latN.toNat ≤ 16 → ∃ t, exec (.stepPpm now) s = .next t ∧
      (∀ i : Fin 16, t.ch[i] = if i.val < s.latN.toNat then normPpm s.lat[i] else s.ch[i]) ∧
      t = { s with ch := t.ch, fc := false, out := .stepOk true })

/-- Each accepted frame yields at most one successful poll (R172): a successful poll needs `fc` and clears it; while `fc`
is clear every poll, be it STEP.PPM or STEP(T) under PPM, returns 0 and changes nothing (but for the time: log entry 5);
and whatever is run from a state with `fc` clear, if `fc` is set at the end then an edge completed a frame in between. -/
def Obligations.PpmFrameDeliveredOnce : Prop :=
  (∀ (now : Stamp) (s t : State), exec (.stepPpm now) s = .next t → t.out = .stepOk true →
    s.fc = true ∧ t.fc = false) ∧
  (∀ s : State, s.fc = false →
    (∀ now, exec (.stepPpm now) s = .next { s with out := .stepOk false }) ∧
    (s.cfg.proto s.psel = .ppm → ∀ t, exec (.step t) s = .next { s with time := t, out := .stepOk false })) ∧
  ∀ (is : List Instr) (s t : State), s.fc = false → execAll is s = some t → t.fc = true →
    ∃ before i after u, is = before ++ i :: after ∧ execAll before s = some u ∧ CompletesPpmFrame i u

/-- EDGE is the handler's: it writes nothing of the main loop's, neither the channels nor the framer state nor the
queue nor a result (R35, R198, R201). That the state keeps the event's time is the model's choice (log entry 5). -/
def Obligations.EdgeLeavesMainContextAlone : Prop :=
  ∀ (t : Nat) (s s' : State), exec (.edge t) s = .next s' →
    s' = { s with
      time := t, lastEdgeUs := s'.lastEdgeUs, pw := s'.pw, ppmIdx := s'.ppmIdx, lat := s'.lat, latN := s'.latN
      fc := s'.fc, missed := s'.missed, ppmLastFrameMs := s'.ppmLastFrameMs, log := s'.log } ∧
    (s.fc = true → s'.fc = true)

/-- The source's PPM property (R174), for every legal configuration and any reference edge: six pulses of 1500 us and a
4000 us gap latch six channels of exactly 1500, which the next poll within the timeout delivers; three pulses before the
gap count one missed frame and complete none. -/
def Obligations.PpmSixPulsesAndThreePulses : Prop :=
  ∀ (s : State) (t0 t1 : Nat), s.cfg.Legal → s.cfg.proto s.psel = .ppm → s.ppmIdx = 0 →
    s.lastEdgeUs = BitVec.ofNat 32 t0 → t0 + 13000 ≤ t1 →
    (t1 / 1000 ≤ (t0 + 13000) / 1000 + s.cfg.ppmTimeoutMs →
      ∃ a b, execAll [.edge (t0 + 1500), .edge (t0 + 3000), .edge (t0 + 4500), .edge (t0 + 6000), .edge (t0 + 7500),
          .edge (t0 + 9000), .edge (t0 + 13000)] s = some a ∧
        a.latN = 6 ∧ a.fc = true ∧ a.missed = 0 ∧ a.ppmIdx = 0 ∧ (∀ i : Fin 16, i.val < 6 → a.lat[i] = 1500) ∧
        exec (.step t1) a = .next b ∧ b.out = .stepOk true ∧ b.fc = false ∧
        ∀ i : Fin 16, b.ch[i] = if i.val < 6 then 1500 else s.ch[i]) ∧
    ∃ a, execAll [.edge (t0 + 1500), .edge (t0 + 3000), .edge (t0 + 4500), .edge (t0 + 8500)] s = some a ∧
      a.missed.toNat = min (s.missed.toNat + 1) 255 ∧ a.fc = s.fc ∧ a.ppmIdx = 0 ∧ a.latN = s.latN ∧ a.lat = s.lat

/-! ### IBUS -/

/-- STEP.IBUS (R186): exactly one call of the collaborator, whose answer is the oldest announced one or, with none
announced, any (the free value of log entry 2); nothing new returns 0; else the first IBUS_NCH values are copied,
saturated, and the other channels kept. -/
def Obligations.IbusStepCopiesAnswer : Prop :=
  ∀ (a : IbusAnswer) (s s1 : State),
    (∃ rest, s.ibusAns = a :: rest ∧ s1 = { s with ibusAns := rest }) ∨
      (s.ibusAns = [] ∧ a = Config.ibusAnswer s.ibusCalls ∧ s1 = { s with ibusCalls := s.ibusCalls + 1 }) →
    (a.new = false → exec .stepIbus s = .next { s1 with out := .stepOk false }) ∧
    (a.new = true → s.cfg.ibusNch ≤ 16 → ∃ t, exec .stepIbus s = .next t ∧
      (∀ i : Fin 16, t.ch[i] = if i.val < s.cfg.ibusNch then normIbus a.vals[i] else s.ch[i]) ∧
      t = { s1 with ch := t.ch, out := .stepOk true })

/-! ### Whole machine -/

/-- The one fault of the model (log entry 9, the model's choice): an operation whose index lies past the end of its
array. No state that meets the invariant is one of these (NoStepFaultsOrRefuses). -/
def Obligations.IndexPastArrayFaults : Prop :=
  ∀ (b : Byte) (now w tms : Stamp) (bits : Width) (s : State),
    let gap := (now - s.lastByteMs).toNat
    (64 ≤ s.idx.toNat →
      (gap ≤ s.cfg.sbusByteTo → exec (.sbusByte b now) s = .fault (.indexRange .buf s.idx.toNat)) ∧
      (gap ≤ s.cfg.crsfByteTo → exec (.crsfByte b now) s = .fault (.indexRange .buf s.idx.toNat)) ∧
      (gap ≤ s.cfg.dsmByteTo → exec (.dsmByte b now bits) s = .fault (.indexRange .buf s.idx.toNat)) ∧
      (gap ≤ s.cfg.fportByteTo → exec (.fportByte b now) s = .fault (.indexRange .buf s.idx.toNat))) ∧
    (63 ≤ s.buf[1].toNat → exec (.crsfFrame now) s = .fault (.indexRange .buf (s.buf[1].toNat + 1))) ∧
    (16 < s.ppmIdx.toNat → exec (.edgeSyncAcc w tms) s = .fault (.indexRange .pw (s.ppmIdx.toNat - 1))) ∧
    (s.fc = true → s.missed.toNat ≤ s.cfg.ppmMaxMissed →
      (now - s.ppmLastFrameMs).toNat ≤ s.cfg.ppmTimeoutMs → 16 < s.latN.toNat →
      exec (.stepPpm now) s = .fault (.indexRange .lat (s.latN.toNat - 1))) ∧
    (∀ a rest, s.ibusAns = a :: rest → a.new = true → 16 < s.cfg.ibusNch →
      exec .stepIbus s = .fault (.indexRange .ch (s.cfg.ibusNch - 1)))

/-- STEP(T) completes from every state that meets the invariant's clauses on the state, under every selector, and
returns one bit; with the bit 0 the Channel Buffer is unchanged (R94); the capture state is not written but for `fc`,
which only PPM's success clears, and the framer state and the queue only by a byte-stream decoder (R35). That the state
keeps the event's time is the model's choice (log entry 5). -/
def Obligations.StepCompletesAndKeepsContract : Prop :=
  ∀ (t : Nat) (s : State), s.cfg.Legal → FramerOk s → CaptureOk s →
    ∃ s', exec (.step t) s = .next s' ∧ s'.time = t ∧
      (∃ ok, s'.out = .stepOk ok) ∧ (s'.out = .stepOk false → s'.ch = s.ch) ∧
      s'.psel = s.psel ∧ s'.cfg = s.cfg ∧ s'.ibusInited = s.ibusInited ∧ s'.inbox = s.inbox ∧
      s'.lastEdgeUs = s.lastEdgeUs ∧ s'.pw = s.pw ∧ s'.ppmIdx = s.ppmIdx ∧ s'.lat = s.lat ∧ s'.latN = s.latN ∧
      s'.missed = s.missed ∧ s'.ppmLastFrameMs = s.ppmLastFrameMs ∧
      (s'.fc = s.fc ∨ (s.cfg.proto s.psel = .ppm ∧ s'.out = .stepOk true ∧ s'.fc = false)) ∧
      (byteStream (s.cfg.proto s.psel) = false →
        s'.buf = s.buf ∧ s'.idx = s.idx ∧ s'.expLen = s.expLen ∧ s'.lastByteMs = s.lastByteMs ∧
        s'.lastFrameMs = s.lastFrameMs ∧ s'.rxq = s.rxq) ∧
      (s.cfg.proto s.psel ≠ .ibus → s'.ibusAns = s.ibusAns ∧ s'.ibusCalls = s.ibusCalls)

/-- The state after RESET(psel) meets the invariant, for every legal configuration and selector, and so does the
machine's reset state. -/
def Obligations.ResetMeetsInvariant : Prop :=
  (∀ (c : Cfg) (psel : Psel), c.Legal → Inv (State.resetWith c psel) ∧ Dormant (State.resetWith c psel)) ∧
  Inv State.reset ∧ Dormant State.reset

/-- Every step keeps the invariant (R34 a to e): the channels in range, the fill index below the frame length in force,
the capture counts in their ranges, `fc` only with a latched frame. -/
def Obligations.StepKeepsInvariant : Prop :=
  ∀ s s' : State, Inv s → step s = .next s' → Inv s'

/-- No step faults or is refused from a state that meets the invariant (R192): the step is total. The faults and the
refusal it rules out are the model's (log entries 8, 9), and so is the delivery of events (log entry 4). -/
def Obligations.NoStepFaultsOrRefuses : Prop :=
  ∀ s : State, Inv s → StepsSafely s

/-- The state that the selected decoder does not use stays at its reset values, along every step of an environment that
delivers events only (R91). -/
def Obligations.StepKeepsDormantState : Prop :=
  ∀ s s' : State, EventsOnly s → Dormant s → step s = .next s' → Dormant s'

/-- The selector latch is written by RESET only (R12, R34 f, R51). That nothing writes `cfg` or `inbox` is about the
model's own fields: the configuration is a parameter of the step relation and not state (R36), so the field that carries
it stays (log entry 1), and the records still to come are the environment's (log entry 4). -/
def Obligations.SelectorChangesOnlyAtReset : Prop :=
  ∀ (i : Instr) (s s' : State), exec i s = .next s' →
    s'.cfg = s.cfg ∧ s'.inbox = s.inbox ∧ ((∀ psel, i ≠ .reset psel) → s'.psel = s.psel) ∧
    ∀ psel, i = .reset psel → s'.psel = psel

/-- An environment whose event times never decrease stays one, each EDGE and STEP moving the time to its own (R204;
the field that holds the time is the model's choice, log entry 5). -/
def Obligations.StepKeepsTimesOrdered : Prop :=
  ∀ s s' : State, timesOrdered s.time s.inbox → step s = .next s' →
    timesOrdered s'.time s'.inbox ∧ (s'.time = 0 ∨ s.time ≤ s'.time)

/-- The byte-stream decoders and the IBUS adapter touch nothing the handler touches (R49): with any other capture state
they answer the same, that capture state untouched. -/
def Obligations.ByteStreamStepsIgnoreCaptureState : Prop :=
  ∀ (now : Stamp) (s t c : State),
    let swap (u : State) : State :=
      { u with lastEdgeUs := c.lastEdgeUs, pw := c.pw, ppmIdx := c.ppmIdx, lat := c.lat, latN := c.latN
               fc := c.fc, missed := c.missed, ppmLastFrameMs := c.ppmLastFrameMs }
    ∀ i ∈ [Instr.stepSbus now, .stepCrsf now, .stepDsm2 now, .stepDsmx now, .stepFport now, .stepIbus],
      exec i s = .next t → exec i (swap s) = .next (swap t)

/-- No operation reads the event log, and each only appends to it (R190): with another log, the outcome is the same but
for the log, which gets the same labels. -/
def Obligations.EventLogIsNeverRead : Prop :=
  ∀ (i : Instr) (s s' : State) (l : List Label), exec i s = .next s' →
    ∃ d, s'.log = s.log ++ d ∧ exec i { s with log := l } = .next { s' with log := l ++ d }
end

