-- ==== Sys2Proof/Laws/Bytes.lean ====
section
/-! SUPPORT. The two readings of a byte list, and what each field reader of the decoder can answer. -/

namespace Sys2Proof

@[simp] theorem leBytes_length (n v : Nat) : (leBytes n v).length = n := by
  induction n generalizing v with
  | zero => rfl
  | succ n ih => simp [leBytes, ih]

theorem leNat_leBytes (n v : Nat) : leNat (leBytes n v) = v % 256 ^ n := by
  induction n generalizing v with
  | zero => simp [leBytes, leNat, Nat.mod_one]
  | succ n ih =>
    simp only [leBytes, leNat, ih, BitVec.toNat_ofNat]
    rw [Nat.pow_succ' (n := n) (m := 256), Nat.mod_mul]

theorem leNat_leBytes_of_lt {n v : Nat} (h : v < 256 ^ n) : leNat (leBytes n v) = v := by
  rw [leNat_leBytes, Nat.mod_eq_of_lt h]

theorem leNat_lt (bs : List Byte) : leNat bs < 256 ^ bs.length := by
  induction bs with
  | nil => simp [leNat]
  | cons b bs ih =>
    have hb : b.toNat < 256 := b.isLt
    simp only [leNat, List.length_cons, Nat.pow_succ]
    omega

theorem leBytes_leNat (bs : List Byte) : leBytes bs.length (leNat bs) = bs := by
  induction bs with
  | nil => rfl
  | cons b bs ih =>
    have hb : b.toNat < 256 := b.isLt
    have h1 : (b.toNat + 256 * leNat bs) / 256 = leNat bs := by omega
    have h2 : BitVec.ofNat 8 (b.toNat + 256 * leNat bs) = b := by
      apply BitVec.eq_of_toNat_eq
      simp only [BitVec.toNat_ofNat]
      omega
    simp [leBytes, leNat, h1, h2, ih]

/-- One more seven-bit group than it takes makes no difference. -/
theorem natBytesUpTo_congr (n m v : Nat) (hn : v < 128 ^ (n + 1)) (hm : v < 128 ^ (m + 1)) :
    natBytesUpTo n v = natBytesUpTo m v := by
  induction n generalizing m v with
  | zero =>
    cases m with
    | zero => rfl
    | succ m => rw [natBytesUpTo, natBytesUpTo, if_pos (by simpa using hn)]
  | succ n ih =>
    cases m with
    | zero => rw [natBytesUpTo, natBytesUpTo, if_pos (by simpa using hm)]
    | succ m =>
      rw [natBytesUpTo, natBytesUpTo]
      split
      · rfl
      · rw [ih m (v / 128)]
        · rw [Nat.pow_succ] at hn; omega
        · rw [Nat.pow_succ] at hm; omega

theorem lt_pow_log2 (v : Nat) : v < 128 ^ (v.log2 + 1) :=
  Nat.lt_of_lt_of_le Nat.lt_log2_self (Nat.pow_le_pow_left (by omega) _)

/-- A natural is one byte, or a byte with bit 7 set and the natural of its higher bits. -/
theorem natBytes_eq (v : Nat) :
    natBytes v = if v < 128 then [BitVec.ofNat 8 v] else BitVec.ofNat 8 (128 + v % 128) :: natBytes (v / 128) := by
  have hs : natBytes v = natBytesUpTo (v.log2 + 1) v :=
    natBytesUpTo_congr _ _ _ (lt_pow_log2 v)
      (Nat.lt_of_lt_of_le (lt_pow_log2 v) (Nat.pow_le_pow_right (by omega) (by omega)))
  rw [hs, natBytesUpTo]
  split
  · rfl
  · have h := lt_pow_log2 v
    rw [natBytes, natBytesUpTo_congr v.log2 (v / 128).log2 (v / 128) (by omega) (lt_pow_log2 _)]

/-- Reading back a natural that was written. -/
theorem takeNat_append {m : String} (v : Nat) (r : List Byte) : takeNat m (natBytes v ++ r) = .ok (v, r) := by
  induction v using Nat.strongRecOn with
  | ind v ih =>
    rw [natBytes_eq]
    by_cases h : v < 128
    · have hb : (BitVec.ofNat 8 v).toNat = v := by simp only [BitVec.toNat_ofNat]; omega
      rw [if_pos h, List.singleton_append, takeNat, hb, if_pos h]
    · have hb : (BitVec.ofNat 8 (128 + v % 128)).toNat = 128 + v % 128 := by simp only [BitVec.toNat_ofNat]; omega
      rw [if_neg h, List.cons_append, takeNat, hb, if_neg (by omega), ih (v / 128) (by omega)]
      simp only [if_neg (show v / 128 ≠ 0 by omega), Except.ok.injEq, Prod.mk.injEq, and_true]
      omega

/-- A natural is read from the front and the rest is left; it has no other form. -/
theorem takeNat_ok {m : String} {bs r : List Byte} {v : Nat} (h : takeNat m bs = .ok (v, r)) : bs = natBytes v ++ r := by
  induction bs generalizing v r with
  | nil => simp [takeNat] at h
  | cons b bs ih =>
    have hb : b.toNat < 256 := b.isLt
    unfold takeNat at h
    split at h
    · rename_i hlt
      simp only [Except.ok.injEq, Prod.mk.injEq] at h
      obtain ⟨rfl, rfl⟩ := h
      rw [natBytes_eq, if_pos hlt, BitVec.ofNat_toNat, BitVec.setWidth_eq]
      rfl
    · split at h
      · cases h
      · rename_i u q hq
        split at h
        · cases h
        · rename_i hu
          simp only [Except.ok.injEq, Prod.mk.injEq] at h
          obtain ⟨rfl, rfl⟩ := h
          have e1 : (b.toNat - 128 + 128 * u) / 128 = u := by omega
          have e2 : BitVec.ofNat 8 (128 + (b.toNat - 128 + 128 * u) % 128) = b := by
            apply BitVec.eq_of_toNat_eq
            simp only [BitVec.toNat_ofNat]
            omega
          rw [natBytes_eq, if_neg (by omega), e1, e2, ih hq]
          rfl

/-- How many bytes a natural takes: one for every seven bits. -/
def natLength (v : Nat) : Nat := v.log2 / 7 + 1

@[simp] theorem natBytes_length (v : Nat) : (natBytes v).length = natLength v := by
  induction v using Nat.strongRecOn with
  | ind v ih =>
    rw [natBytes_eq, natLength]
    by_cases h : v < 128
    · have hl : v.log2 < 7 := by
        by_cases h0 : v = 0
        · subst h0; decide
        · exact (Nat.log2_lt h0).mpr h
      rw [if_pos h]
      simp only [List.length_singleton]
      omega
    · have hl : v.log2 = (v / 128).log2 + 7 := by
        have h0 : v / 128 ≠ 0 := by omega
        have h1 := Nat.log2_self_le h0
        have h2 := Nat.lt_log2_self (n := v / 128)
        refine (Nat.log2_eq_iff (by omega)).mpr ⟨?_, ?_⟩
        · rw [Nat.pow_add]; omega
        · rw [show (v / 128).log2 + 7 + 1 = (v / 128).log2 + 1 + 7 by omega, Nat.pow_add]; omega
      rw [if_neg h, List.length_cons, ih (v / 128) (by omega), natLength, hl]
      omega

/-- A field is read from the front, low byte first, and the rest is left. -/
theorem takeField_ok {m : String} {n : Nat} {bs r : List Byte} {v : Nat} (h : takeField m n bs = .ok (v, r)) :
    bs = leBytes n v ++ r ∧ v < 256 ^ n := by
  unfold takeField at h
  split at h
  · rename_i hn
    simp only [Except.ok.injEq, Prod.mk.injEq] at h
    obtain ⟨rfl, rfl⟩ := h
    have hl : (bs.take n).length = n := by simp [hn]
    constructor
    · have := leBytes_leNat (bs.take n)
      rw [hl] at this
      rw [this, List.take_append_drop]
    · have := leNat_lt (bs.take n)
      rwa [hl] at this
  · cases h

/-- Reading back a field that was written. -/
theorem takeField_append {m : String} {n v : Nat} (r : List Byte) (h : v < 256 ^ n) :
    takeField m n (leBytes n v ++ r) = .ok (v, r) := by
  have hl : (leBytes n v).length = n := leBytes_length n v
  simp [takeField, hl, leNat_leBytes_of_lt h]

theorem takeBounded_append {m : String} {n bound v : Nat} (r : List Byte) (h : v < 256 ^ n) (hb : v < bound) :
    takeBounded m n bound (leBytes n v ++ r) = .ok (v, r) := by
  simp [takeBounded, takeField_append r h, hb]

theorem takeStamp_append {m : String} (now : Stamp) (r : List Byte) :
    takeStamp m (leBytes 4 now.toNat ++ r) = .ok (now, r) := by
  have h : now.toNat < 256 ^ 4 := now.isLt
  simp [takeStamp, takeField_append r h]

end Sys2Proof
end

