-- ==== Sys2Proof/Laws/Config.lean ====
section
/-! SUPPORT. REFCFG meets every constraint of R7. -/

namespace Sys2Proof

theorem refcfg_legal : refcfg.Legal where
  footersFour := by decide
  footersZero := by decide
  lostOneBit := ⟨2, by decide⟩
  fsOneBit := ⟨3, by decide⟩
  masksDiffer := by decide
  byteTimeouts := by decide
  frameTimeouts := by decide
  crsfLen := by decide
  ppmChannel := by decide
  ppmChFits := by decide
  ppmSync := by decide
  ppmAbs := by decide
  maxMissed := by decide
  ppmTimeout := by decide
  ibusCount := by decide
  codesDistinct := by decide

end Sys2Proof
end

