-- ==== Sys2Proof/Laws/State.lean ====
section
/-! SUPPORT. What each named update of the state does to each field: one lemma a field an update, so that no later proof
unfolds a record update. -/

namespace Sys2Proof.Machine

variable (s : State)

/-! ### raise -/

@[simp] theorem State.raise_ch (l : Label) : (s.raise l).ch = s.ch := rfl
@[simp] theorem State.raise_psel (l : Label) : (s.raise l).psel = s.psel := rfl
@[simp] theorem State.raise_buf (l : Label) : (s.raise l).buf = s.buf := rfl
@[simp] theorem State.raise_idx (l : Label) : (s.raise l).idx = s.idx := rfl
@[simp] theorem State.raise_expLen (l : Label) : (s.raise l).expLen = s.expLen := rfl
@[simp] theorem State.raise_lastByteMs (l : Label) : (s.raise l).lastByteMs = s.lastByteMs := rfl
@[simp] theorem State.raise_lastFrameMs (l : Label) : (s.raise l).lastFrameMs = s.lastFrameMs := rfl
@[simp] theorem State.raise_lastEdgeUs (l : Label) : (s.raise l).lastEdgeUs = s.lastEdgeUs := rfl
@[simp] theorem State.raise_pw (l : Label) : (s.raise l).pw = s.pw := rfl
@[simp] theorem State.raise_ppmIdx (l : Label) : (s.raise l).ppmIdx = s.ppmIdx := rfl
@[simp] theorem State.raise_lat (l : Label) : (s.raise l).lat = s.lat := rfl
@[simp] theorem State.raise_latN (l : Label) : (s.raise l).latN = s.latN := rfl
@[simp] theorem State.raise_fc (l : Label) : (s.raise l).fc = s.fc := rfl
@[simp] theorem State.raise_missed (l : Label) : (s.raise l).missed = s.missed := rfl
@[simp] theorem State.raise_ppmLastFrameMs (l : Label) : (s.raise l).ppmLastFrameMs = s.ppmLastFrameMs := rfl
@[simp] theorem State.raise_ibusInited (l : Label) : (s.raise l).ibusInited = s.ibusInited := rfl
@[simp] theorem State.raise_rxq (l : Label) : (s.raise l).rxq = s.rxq := rfl
@[simp] theorem State.raise_time (l : Label) : (s.raise l).time = s.time := rfl
@[simp] theorem State.raise_cfg (l : Label) : (s.raise l).cfg = s.cfg := rfl
@[simp] theorem State.raise_ibusAns (l : Label) : (s.raise l).ibusAns = s.ibusAns := rfl
@[simp] theorem State.raise_ibusCalls (l : Label) : (s.raise l).ibusCalls = s.ibusCalls := rfl
@[simp] theorem State.raise_inbox (l : Label) : (s.raise l).inbox = s.inbox := rfl
@[simp] theorem State.raise_out (l : Label) : (s.raise l).out = s.out := rfl
@[simp] theorem State.raise_log (l : Label) : (s.raise l).log = s.log ++ [l] := rfl

/-! ### withOut -/

@[simp] theorem State.withOut_ch (o : Output) : (s.withOut o).ch = s.ch := rfl
@[simp] theorem State.withOut_psel (o : Output) : (s.withOut o).psel = s.psel := rfl
@[simp] theorem State.withOut_buf (o : Output) : (s.withOut o).buf = s.buf := rfl
@[simp] theorem State.withOut_idx (o : Output) : (s.withOut o).idx = s.idx := rfl
@[simp] theorem State.withOut_expLen (o : Output) : (s.withOut o).expLen = s.expLen := rfl
@[simp] theorem State.withOut_lastByteMs (o : Output) : (s.withOut o).lastByteMs = s.lastByteMs := rfl
@[simp] theorem State.withOut_lastFrameMs (o : Output) : (s.withOut o).lastFrameMs = s.lastFrameMs := rfl
@[simp] theorem State.withOut_lastEdgeUs (o : Output) : (s.withOut o).lastEdgeUs = s.lastEdgeUs := rfl
@[simp] theorem State.withOut_pw (o : Output) : (s.withOut o).pw = s.pw := rfl
@[simp] theorem State.withOut_ppmIdx (o : Output) : (s.withOut o).ppmIdx = s.ppmIdx := rfl
@[simp] theorem State.withOut_lat (o : Output) : (s.withOut o).lat = s.lat := rfl
@[simp] theorem State.withOut_latN (o : Output) : (s.withOut o).latN = s.latN := rfl
@[simp] theorem State.withOut_fc (o : Output) : (s.withOut o).fc = s.fc := rfl
@[simp] theorem State.withOut_missed (o : Output) : (s.withOut o).missed = s.missed := rfl
@[simp] theorem State.withOut_ppmLastFrameMs (o : Output) : (s.withOut o).ppmLastFrameMs = s.ppmLastFrameMs := rfl
@[simp] theorem State.withOut_ibusInited (o : Output) : (s.withOut o).ibusInited = s.ibusInited := rfl
@[simp] theorem State.withOut_rxq (o : Output) : (s.withOut o).rxq = s.rxq := rfl
@[simp] theorem State.withOut_time (o : Output) : (s.withOut o).time = s.time := rfl
@[simp] theorem State.withOut_cfg (o : Output) : (s.withOut o).cfg = s.cfg := rfl
@[simp] theorem State.withOut_ibusAns (o : Output) : (s.withOut o).ibusAns = s.ibusAns := rfl
@[simp] theorem State.withOut_ibusCalls (o : Output) : (s.withOut o).ibusCalls = s.ibusCalls := rfl
@[simp] theorem State.withOut_inbox (o : Output) : (s.withOut o).inbox = s.inbox := rfl
@[simp] theorem State.withOut_out (o : Output) : (s.withOut o).out = o := rfl
@[simp] theorem State.withOut_log (o : Output) : (s.withOut o).log = s.log := rfl

/-! ### withIdx -/

@[simp] theorem State.withIdx_ch (i : BitVec 7) : (s.withIdx i).ch = s.ch := rfl
@[simp] theorem State.withIdx_psel (i : BitVec 7) : (s.withIdx i).psel = s.psel := rfl
@[simp] theorem State.withIdx_buf (i : BitVec 7) : (s.withIdx i).buf = s.buf := rfl
@[simp] theorem State.withIdx_idx (i : BitVec 7) : (s.withIdx i).idx = i := rfl
@[simp] theorem State.withIdx_expLen (i : BitVec 7) : (s.withIdx i).expLen = s.expLen := rfl
@[simp] theorem State.withIdx_lastByteMs (i : BitVec 7) : (s.withIdx i).lastByteMs = s.lastByteMs := rfl
@[simp] theorem State.withIdx_lastFrameMs (i : BitVec 7) : (s.withIdx i).lastFrameMs = s.lastFrameMs := rfl
@[simp] theorem State.withIdx_lastEdgeUs (i : BitVec 7) : (s.withIdx i).lastEdgeUs = s.lastEdgeUs := rfl
@[simp] theorem State.withIdx_pw (i : BitVec 7) : (s.withIdx i).pw = s.pw := rfl
@[simp] theorem State.withIdx_ppmIdx (i : BitVec 7) : (s.withIdx i).ppmIdx = s.ppmIdx := rfl
@[simp] theorem State.withIdx_lat (i : BitVec 7) : (s.withIdx i).lat = s.lat := rfl
@[simp] theorem State.withIdx_latN (i : BitVec 7) : (s.withIdx i).latN = s.latN := rfl
@[simp] theorem State.withIdx_fc (i : BitVec 7) : (s.withIdx i).fc = s.fc := rfl
@[simp] theorem State.withIdx_missed (i : BitVec 7) : (s.withIdx i).missed = s.missed := rfl
@[simp] theorem State.withIdx_ppmLastFrameMs (i : BitVec 7) : (s.withIdx i).ppmLastFrameMs = s.ppmLastFrameMs := rfl
@[simp] theorem State.withIdx_ibusInited (i : BitVec 7) : (s.withIdx i).ibusInited = s.ibusInited := rfl
@[simp] theorem State.withIdx_rxq (i : BitVec 7) : (s.withIdx i).rxq = s.rxq := rfl
@[simp] theorem State.withIdx_time (i : BitVec 7) : (s.withIdx i).time = s.time := rfl
@[simp] theorem State.withIdx_cfg (i : BitVec 7) : (s.withIdx i).cfg = s.cfg := rfl
@[simp] theorem State.withIdx_ibusAns (i : BitVec 7) : (s.withIdx i).ibusAns = s.ibusAns := rfl
@[simp] theorem State.withIdx_ibusCalls (i : BitVec 7) : (s.withIdx i).ibusCalls = s.ibusCalls := rfl
@[simp] theorem State.withIdx_inbox (i : BitVec 7) : (s.withIdx i).inbox = s.inbox := rfl
@[simp] theorem State.withIdx_out (i : BitVec 7) : (s.withIdx i).out = s.out := rfl
@[simp] theorem State.withIdx_log (i : BitVec 7) : (s.withIdx i).log = s.log := rfl

/-! ### withExpLen -/

@[simp] theorem State.withExpLen_ch (n : BitVec 7) : (s.withExpLen n).ch = s.ch := rfl
@[simp] theorem State.withExpLen_psel (n : BitVec 7) : (s.withExpLen n).psel = s.psel := rfl
@[simp] theorem State.withExpLen_buf (n : BitVec 7) : (s.withExpLen n).buf = s.buf := rfl
@[simp] theorem State.withExpLen_idx (n : BitVec 7) : (s.withExpLen n).idx = s.idx := rfl
@[simp] theorem State.withExpLen_expLen (n : BitVec 7) : (s.withExpLen n).expLen = n := rfl
@[simp] theorem State.withExpLen_lastByteMs (n : BitVec 7) : (s.withExpLen n).lastByteMs = s.lastByteMs := rfl
@[simp] theorem State.withExpLen_lastFrameMs (n : BitVec 7) : (s.withExpLen n).lastFrameMs = s.lastFrameMs := rfl
@[simp] theorem State.withExpLen_lastEdgeUs (n : BitVec 7) : (s.withExpLen n).lastEdgeUs = s.lastEdgeUs := rfl
@[simp] theorem State.withExpLen_pw (n : BitVec 7) : (s.withExpLen n).pw = s.pw := rfl
@[simp] theorem State.withExpLen_ppmIdx (n : BitVec 7) : (s.withExpLen n).ppmIdx = s.ppmIdx := rfl
@[simp] theorem State.withExpLen_lat (n : BitVec 7) : (s.withExpLen n).lat = s.lat := rfl
@[simp] theorem State.withExpLen_latN (n : BitVec 7) : (s.withExpLen n).latN = s.latN := rfl
@[simp] theorem State.withExpLen_fc (n : BitVec 7) : (s.withExpLen n).fc = s.fc := rfl
@[simp] theorem State.withExpLen_missed (n : BitVec 7) : (s.withExpLen n).missed = s.missed := rfl
@[simp] theorem State.withExpLen_ppmLastFrameMs (n : BitVec 7) : (s.withExpLen n).ppmLastFrameMs = s.ppmLastFrameMs := rfl
@[simp] theorem State.withExpLen_ibusInited (n : BitVec 7) : (s.withExpLen n).ibusInited = s.ibusInited := rfl
@[simp] theorem State.withExpLen_rxq (n : BitVec 7) : (s.withExpLen n).rxq = s.rxq := rfl
@[simp] theorem State.withExpLen_time (n : BitVec 7) : (s.withExpLen n).time = s.time := rfl
@[simp] theorem State.withExpLen_cfg (n : BitVec 7) : (s.withExpLen n).cfg = s.cfg := rfl
@[simp] theorem State.withExpLen_ibusAns (n : BitVec 7) : (s.withExpLen n).ibusAns = s.ibusAns := rfl
@[simp] theorem State.withExpLen_ibusCalls (n : BitVec 7) : (s.withExpLen n).ibusCalls = s.ibusCalls := rfl
@[simp] theorem State.withExpLen_inbox (n : BitVec 7) : (s.withExpLen n).inbox = s.inbox := rfl
@[simp] theorem State.withExpLen_out (n : BitVec 7) : (s.withExpLen n).out = s.out := rfl
@[simp] theorem State.withExpLen_log (n : BitVec 7) : (s.withExpLen n).log = s.log := rfl

/-! ### withByteStamp -/

@[simp] theorem State.withByteStamp_ch (now : Stamp) : (s.withByteStamp now).ch = s.ch := rfl
@[simp] theorem State.withByteStamp_psel (now : Stamp) : (s.withByteStamp now).psel = s.psel := rfl
@[simp] theorem State.withByteStamp_buf (now : Stamp) : (s.withByteStamp now).buf = s.buf := rfl
@[simp] theorem State.withByteStamp_idx (now : Stamp) : (s.withByteStamp now).idx = s.idx := rfl
@[simp] theorem State.withByteStamp_expLen (now : Stamp) : (s.withByteStamp now).expLen = s.expLen := rfl
@[simp] theorem State.withByteStamp_lastByteMs (now : Stamp) : (s.withByteStamp now).lastByteMs = now := rfl
@[simp] theorem State.withByteStamp_lastFrameMs (now : Stamp) : (s.withByteStamp now).lastFrameMs = s.lastFrameMs := rfl
@[simp] theorem State.withByteStamp_lastEdgeUs (now : Stamp) : (s.withByteStamp now).lastEdgeUs = s.lastEdgeUs := rfl
@[simp] theorem State.withByteStamp_pw (now : Stamp) : (s.withByteStamp now).pw = s.pw := rfl
@[simp] theorem State.withByteStamp_ppmIdx (now : Stamp) : (s.withByteStamp now).ppmIdx = s.ppmIdx := rfl
@[simp] theorem State.withByteStamp_lat (now : Stamp) : (s.withByteStamp now).lat = s.lat := rfl
@[simp] theorem State.withByteStamp_latN (now : Stamp) : (s.withByteStamp now).latN = s.latN := rfl
@[simp] theorem State.withByteStamp_fc (now : Stamp) : (s.withByteStamp now).fc = s.fc := rfl
@[simp] theorem State.withByteStamp_missed (now : Stamp) : (s.withByteStamp now).missed = s.missed := rfl
@[simp] theorem State.withByteStamp_ppmLastFrameMs (now : Stamp) : (s.withByteStamp now).ppmLastFrameMs = s.ppmLastFrameMs := rfl
@[simp] theorem State.withByteStamp_ibusInited (now : Stamp) : (s.withByteStamp now).ibusInited = s.ibusInited := rfl
@[simp] theorem State.withByteStamp_rxq (now : Stamp) : (s.withByteStamp now).rxq = s.rxq := rfl
@[simp] theorem State.withByteStamp_time (now : Stamp) : (s.withByteStamp now).time = s.time := rfl
@[simp] theorem State.withByteStamp_cfg (now : Stamp) : (s.withByteStamp now).cfg = s.cfg := rfl
@[simp] theorem State.withByteStamp_ibusAns (now : Stamp) : (s.withByteStamp now).ibusAns = s.ibusAns := rfl
@[simp] theorem State.withByteStamp_ibusCalls (now : Stamp) : (s.withByteStamp now).ibusCalls = s.ibusCalls := rfl
@[simp] theorem State.withByteStamp_inbox (now : Stamp) : (s.withByteStamp now).inbox = s.inbox := rfl
@[simp] theorem State.withByteStamp_out (now : Stamp) : (s.withByteStamp now).out = s.out := rfl
@[simp] theorem State.withByteStamp_log (now : Stamp) : (s.withByteStamp now).log = s.log := rfl

/-! ### withFrameStamp -/

@[simp] theorem State.withFrameStamp_ch (now : Stamp) : (s.withFrameStamp now).ch = s.ch := rfl
@[simp] theorem State.withFrameStamp_psel (now : Stamp) : (s.withFrameStamp now).psel = s.psel := rfl
@[simp] theorem State.withFrameStamp_buf (now : Stamp) : (s.withFrameStamp now).buf = s.buf := rfl
@[simp] theorem State.withFrameStamp_idx (now : Stamp) : (s.withFrameStamp now).idx = s.idx := rfl
@[simp] theorem State.withFrameStamp_expLen (now : Stamp) : (s.withFrameStamp now).expLen = s.expLen := rfl
@[simp] theorem State.withFrameStamp_lastByteMs (now : Stamp) : (s.withFrameStamp now).lastByteMs = s.lastByteMs := rfl
@[simp] theorem State.withFrameStamp_lastFrameMs (now : Stamp) : (s.withFrameStamp now).lastFrameMs = now := rfl
@[simp] theorem State.withFrameStamp_lastEdgeUs (now : Stamp) : (s.withFrameStamp now).lastEdgeUs = s.lastEdgeUs := rfl
@[simp] theorem State.withFrameStamp_pw (now : Stamp) : (s.withFrameStamp now).pw = s.pw := rfl
@[simp] theorem State.withFrameStamp_ppmIdx (now : Stamp) : (s.withFrameStamp now).ppmIdx = s.ppmIdx := rfl
@[simp] theorem State.withFrameStamp_lat (now : Stamp) : (s.withFrameStamp now).lat = s.lat := rfl
@[simp] theorem State.withFrameStamp_latN (now : Stamp) : (s.withFrameStamp now).latN = s.latN := rfl
@[simp] theorem State.withFrameStamp_fc (now : Stamp) : (s.withFrameStamp now).fc = s.fc := rfl
@[simp] theorem State.withFrameStamp_missed (now : Stamp) : (s.withFrameStamp now).missed = s.missed := rfl
@[simp] theorem State.withFrameStamp_ppmLastFrameMs (now : Stamp) : (s.withFrameStamp now).ppmLastFrameMs = s.ppmLastFrameMs := rfl
@[simp] theorem State.withFrameStamp_ibusInited (now : Stamp) : (s.withFrameStamp now).ibusInited = s.ibusInited := rfl
@[simp] theorem State.withFrameStamp_rxq (now : Stamp) : (s.withFrameStamp now).rxq = s.rxq := rfl
@[simp] theorem State.withFrameStamp_time (now : Stamp) : (s.withFrameStamp now).time = s.time := rfl
@[simp] theorem State.withFrameStamp_cfg (now : Stamp) : (s.withFrameStamp now).cfg = s.cfg := rfl
@[simp] theorem State.withFrameStamp_ibusAns (now : Stamp) : (s.withFrameStamp now).ibusAns = s.ibusAns := rfl
@[simp] theorem State.withFrameStamp_ibusCalls (now : Stamp) : (s.withFrameStamp now).ibusCalls = s.ibusCalls := rfl
@[simp] theorem State.withFrameStamp_inbox (now : Stamp) : (s.withFrameStamp now).inbox = s.inbox := rfl
@[simp] theorem State.withFrameStamp_out (now : Stamp) : (s.withFrameStamp now).out = s.out := rfl
@[simp] theorem State.withFrameStamp_log (now : Stamp) : (s.withFrameStamp now).log = s.log := rfl

/-! ### withCh -/

@[simp] theorem State.withCh_ch (v : Vector Half 16) : (s.withCh v).ch = v := rfl
@[simp] theorem State.withCh_psel (v : Vector Half 16) : (s.withCh v).psel = s.psel := rfl
@[simp] theorem State.withCh_buf (v : Vector Half 16) : (s.withCh v).buf = s.buf := rfl
@[simp] theorem State.withCh_idx (v : Vector Half 16) : (s.withCh v).idx = s.idx := rfl
@[simp] theorem State.withCh_expLen (v : Vector Half 16) : (s.withCh v).expLen = s.expLen := rfl
@[simp] theorem State.withCh_lastByteMs (v : Vector Half 16) : (s.withCh v).lastByteMs = s.lastByteMs := rfl
@[simp] theorem State.withCh_lastFrameMs (v : Vector Half 16) : (s.withCh v).lastFrameMs = s.lastFrameMs := rfl
@[simp] theorem State.withCh_lastEdgeUs (v : Vector Half 16) : (s.withCh v).lastEdgeUs = s.lastEdgeUs := rfl
@[simp] theorem State.withCh_pw (v : Vector Half 16) : (s.withCh v).pw = s.pw := rfl
@[simp] theorem State.withCh_ppmIdx (v : Vector Half 16) : (s.withCh v).ppmIdx = s.ppmIdx := rfl
@[simp] theorem State.withCh_lat (v : Vector Half 16) : (s.withCh v).lat = s.lat := rfl
@[simp] theorem State.withCh_latN (v : Vector Half 16) : (s.withCh v).latN = s.latN := rfl
@[simp] theorem State.withCh_fc (v : Vector Half 16) : (s.withCh v).fc = s.fc := rfl
@[simp] theorem State.withCh_missed (v : Vector Half 16) : (s.withCh v).missed = s.missed := rfl
@[simp] theorem State.withCh_ppmLastFrameMs (v : Vector Half 16) : (s.withCh v).ppmLastFrameMs = s.ppmLastFrameMs := rfl
@[simp] theorem State.withCh_ibusInited (v : Vector Half 16) : (s.withCh v).ibusInited = s.ibusInited := rfl
@[simp] theorem State.withCh_rxq (v : Vector Half 16) : (s.withCh v).rxq = s.rxq := rfl
@[simp] theorem State.withCh_time (v : Vector Half 16) : (s.withCh v).time = s.time := rfl
@[simp] theorem State.withCh_cfg (v : Vector Half 16) : (s.withCh v).cfg = s.cfg := rfl
@[simp] theorem State.withCh_ibusAns (v : Vector Half 16) : (s.withCh v).ibusAns = s.ibusAns := rfl
@[simp] theorem State.withCh_ibusCalls (v : Vector Half 16) : (s.withCh v).ibusCalls = s.ibusCalls := rfl
@[simp] theorem State.withCh_inbox (v : Vector Half 16) : (s.withCh v).inbox = s.inbox := rfl
@[simp] theorem State.withCh_out (v : Vector Half 16) : (s.withCh v).out = s.out := rfl
@[simp] theorem State.withCh_log (v : Vector Half 16) : (s.withCh v).log = s.log := rfl

/-! ### withRxq -/

@[simp] theorem State.withRxq_ch (q : List Byte) : (s.withRxq q).ch = s.ch := rfl
@[simp] theorem State.withRxq_psel (q : List Byte) : (s.withRxq q).psel = s.psel := rfl
@[simp] theorem State.withRxq_buf (q : List Byte) : (s.withRxq q).buf = s.buf := rfl
@[simp] theorem State.withRxq_idx (q : List Byte) : (s.withRxq q).idx = s.idx := rfl
@[simp] theorem State.withRxq_expLen (q : List Byte) : (s.withRxq q).expLen = s.expLen := rfl
@[simp] theorem State.withRxq_lastByteMs (q : List Byte) : (s.withRxq q).lastByteMs = s.lastByteMs := rfl
@[simp] theorem State.withRxq_lastFrameMs (q : List Byte) : (s.withRxq q).lastFrameMs = s.lastFrameMs := rfl
@[simp] theorem State.withRxq_lastEdgeUs (q : List Byte) : (s.withRxq q).lastEdgeUs = s.lastEdgeUs := rfl
@[simp] theorem State.withRxq_pw (q : List Byte) : (s.withRxq q).pw = s.pw := rfl
@[simp] theorem State.withRxq_ppmIdx (q : List Byte) : (s.withRxq q).ppmIdx = s.ppmIdx := rfl
@[simp] theorem State.withRxq_lat (q : List Byte) : (s.withRxq q).lat = s.lat := rfl
@[simp] theorem State.withRxq_latN (q : List Byte) : (s.withRxq q).latN = s.latN := rfl
@[simp] theorem State.withRxq_fc (q : List Byte) : (s.withRxq q).fc = s.fc := rfl
@[simp] theorem State.withRxq_missed (q : List Byte) : (s.withRxq q).missed = s.missed := rfl
@[simp] theorem State.withRxq_ppmLastFrameMs (q : List Byte) : (s.withRxq q).ppmLastFrameMs = s.ppmLastFrameMs := rfl
@[simp] theorem State.withRxq_ibusInited (q : List Byte) : (s.withRxq q).ibusInited = s.ibusInited := rfl
@[simp] theorem State.withRxq_rxq (q : List Byte) : (s.withRxq q).rxq = q := rfl
@[simp] theorem State.withRxq_time (q : List Byte) : (s.withRxq q).time = s.time := rfl
@[simp] theorem State.withRxq_cfg (q : List Byte) : (s.withRxq q).cfg = s.cfg := rfl
@[simp] theorem State.withRxq_ibusAns (q : List Byte) : (s.withRxq q).ibusAns = s.ibusAns := rfl
@[simp] theorem State.withRxq_ibusCalls (q : List Byte) : (s.withRxq q).ibusCalls = s.ibusCalls := rfl
@[simp] theorem State.withRxq_inbox (q : List Byte) : (s.withRxq q).inbox = s.inbox := rfl
@[simp] theorem State.withRxq_out (q : List Byte) : (s.withRxq q).out = s.out := rfl
@[simp] theorem State.withRxq_log (q : List Byte) : (s.withRxq q).log = s.log := rfl

/-! ### withTime -/

@[simp] theorem State.withTime_ch (t : Nat) : (s.withTime t).ch = s.ch := rfl
@[simp] theorem State.withTime_psel (t : Nat) : (s.withTime t).psel = s.psel := rfl
@[simp] theorem State.withTime_buf (t : Nat) : (s.withTime t).buf = s.buf := rfl
@[simp] theorem State.withTime_idx (t : Nat) : (s.withTime t).idx = s.idx := rfl
@[simp] theorem State.withTime_expLen (t : Nat) : (s.withTime t).expLen = s.expLen := rfl
@[simp] theorem State.withTime_lastByteMs (t : Nat) : (s.withTime t).lastByteMs = s.lastByteMs := rfl
@[simp] theorem State.withTime_lastFrameMs (t : Nat) : (s.withTime t).lastFrameMs = s.lastFrameMs := rfl
@[simp] theorem State.withTime_lastEdgeUs (t : Nat) : (s.withTime t).lastEdgeUs = s.lastEdgeUs := rfl
@[simp] theorem State.withTime_pw (t : Nat) : (s.withTime t).pw = s.pw := rfl
@[simp] theorem State.withTime_ppmIdx (t : Nat) : (s.withTime t).ppmIdx = s.ppmIdx := rfl
@[simp] theorem State.withTime_lat (t : Nat) : (s.withTime t).lat = s.lat := rfl
@[simp] theorem State.withTime_latN (t : Nat) : (s.withTime t).latN = s.latN := rfl
@[simp] theorem State.withTime_fc (t : Nat) : (s.withTime t).fc = s.fc := rfl
@[simp] theorem State.withTime_missed (t : Nat) : (s.withTime t).missed = s.missed := rfl
@[simp] theorem State.withTime_ppmLastFrameMs (t : Nat) : (s.withTime t).ppmLastFrameMs = s.ppmLastFrameMs := rfl
@[simp] theorem State.withTime_ibusInited (t : Nat) : (s.withTime t).ibusInited = s.ibusInited := rfl
@[simp] theorem State.withTime_rxq (t : Nat) : (s.withTime t).rxq = s.rxq := rfl
@[simp] theorem State.withTime_time (t : Nat) : (s.withTime t).time = t := rfl
@[simp] theorem State.withTime_cfg (t : Nat) : (s.withTime t).cfg = s.cfg := rfl
@[simp] theorem State.withTime_ibusAns (t : Nat) : (s.withTime t).ibusAns = s.ibusAns := rfl
@[simp] theorem State.withTime_ibusCalls (t : Nat) : (s.withTime t).ibusCalls = s.ibusCalls := rfl
@[simp] theorem State.withTime_inbox (t : Nat) : (s.withTime t).inbox = s.inbox := rfl
@[simp] theorem State.withTime_out (t : Nat) : (s.withTime t).out = s.out := rfl
@[simp] theorem State.withTime_log (t : Nat) : (s.withTime t).log = s.log := rfl

/-! ### withEdgeStamp -/

@[simp] theorem State.withEdgeStamp_ch (u : Stamp) : (s.withEdgeStamp u).ch = s.ch := rfl
@[simp] theorem State.withEdgeStamp_psel (u : Stamp) : (s.withEdgeStamp u).psel = s.psel := rfl
@[simp] theorem State.withEdgeStamp_buf (u : Stamp) : (s.withEdgeStamp u).buf = s.buf := rfl
@[simp] theorem State.withEdgeStamp_idx (u : Stamp) : (s.withEdgeStamp u).idx = s.idx := rfl
@[simp] theorem State.withEdgeStamp_expLen (u : Stamp) : (s.withEdgeStamp u).expLen = s.expLen := rfl
@[simp] theorem State.withEdgeStamp_lastByteMs (u : Stamp) : (s.withEdgeStamp u).lastByteMs = s.lastByteMs := rfl
@[simp] theorem State.withEdgeStamp_lastFrameMs (u : Stamp) : (s.withEdgeStamp u).lastFrameMs = s.lastFrameMs := rfl
@[simp] theorem State.withEdgeStamp_lastEdgeUs (u : Stamp) : (s.withEdgeStamp u).lastEdgeUs = u := rfl
@[simp] theorem State.withEdgeStamp_pw (u : Stamp) : (s.withEdgeStamp u).pw = s.pw := rfl
@[simp] theorem State.withEdgeStamp_ppmIdx (u : Stamp) : (s.withEdgeStamp u).ppmIdx = s.ppmIdx := rfl
@[simp] theorem State.withEdgeStamp_lat (u : Stamp) : (s.withEdgeStamp u).lat = s.lat := rfl
@[simp] theorem State.withEdgeStamp_latN (u : Stamp) : (s.withEdgeStamp u).latN = s.latN := rfl
@[simp] theorem State.withEdgeStamp_fc (u : Stamp) : (s.withEdgeStamp u).fc = s.fc := rfl
@[simp] theorem State.withEdgeStamp_missed (u : Stamp) : (s.withEdgeStamp u).missed = s.missed := rfl
@[simp] theorem State.withEdgeStamp_ppmLastFrameMs (u : Stamp) : (s.withEdgeStamp u).ppmLastFrameMs = s.ppmLastFrameMs := rfl
@[simp] theorem State.withEdgeStamp_ibusInited (u : Stamp) : (s.withEdgeStamp u).ibusInited = s.ibusInited := rfl
@[simp] theorem State.withEdgeStamp_rxq (u : Stamp) : (s.withEdgeStamp u).rxq = s.rxq := rfl
@[simp] theorem State.withEdgeStamp_time (u : Stamp) : (s.withEdgeStamp u).time = s.time := rfl
@[simp] theorem State.withEdgeStamp_cfg (u : Stamp) : (s.withEdgeStamp u).cfg = s.cfg := rfl
@[simp] theorem State.withEdgeStamp_ibusAns (u : Stamp) : (s.withEdgeStamp u).ibusAns = s.ibusAns := rfl
@[simp] theorem State.withEdgeStamp_ibusCalls (u : Stamp) : (s.withEdgeStamp u).ibusCalls = s.ibusCalls := rfl
@[simp] theorem State.withEdgeStamp_inbox (u : Stamp) : (s.withEdgeStamp u).inbox = s.inbox := rfl
@[simp] theorem State.withEdgeStamp_out (u : Stamp) : (s.withEdgeStamp u).out = s.out := rfl
@[simp] theorem State.withEdgeStamp_log (u : Stamp) : (s.withEdgeStamp u).log = s.log := rfl

/-! ### withInbox -/

@[simp] theorem State.withInbox_ch (rs : List (List Byte)) : (s.withInbox rs).ch = s.ch := rfl
@[simp] theorem State.withInbox_psel (rs : List (List Byte)) : (s.withInbox rs).psel = s.psel := rfl
@[simp] theorem State.withInbox_buf (rs : List (List Byte)) : (s.withInbox rs).buf = s.buf := rfl
@[simp] theorem State.withInbox_idx (rs : List (List Byte)) : (s.withInbox rs).idx = s.idx := rfl
@[simp] theorem State.withInbox_expLen (rs : List (List Byte)) : (s.withInbox rs).expLen = s.expLen := rfl
@[simp] theorem State.withInbox_lastByteMs (rs : List (List Byte)) : (s.withInbox rs).lastByteMs = s.lastByteMs := rfl
@[simp] theorem State.withInbox_lastFrameMs (rs : List (List Byte)) : (s.withInbox rs).lastFrameMs = s.lastFrameMs := rfl
@[simp] theorem State.withInbox_lastEdgeUs (rs : List (List Byte)) : (s.withInbox rs).lastEdgeUs = s.lastEdgeUs := rfl
@[simp] theorem State.withInbox_pw (rs : List (List Byte)) : (s.withInbox rs).pw = s.pw := rfl
@[simp] theorem State.withInbox_ppmIdx (rs : List (List Byte)) : (s.withInbox rs).ppmIdx = s.ppmIdx := rfl
@[simp] theorem State.withInbox_lat (rs : List (List Byte)) : (s.withInbox rs).lat = s.lat := rfl
@[simp] theorem State.withInbox_latN (rs : List (List Byte)) : (s.withInbox rs).latN = s.latN := rfl
@[simp] theorem State.withInbox_fc (rs : List (List Byte)) : (s.withInbox rs).fc = s.fc := rfl
@[simp] theorem State.withInbox_missed (rs : List (List Byte)) : (s.withInbox rs).missed = s.missed := rfl
@[simp] theorem State.withInbox_ppmLastFrameMs (rs : List (List Byte)) : (s.withInbox rs).ppmLastFrameMs = s.ppmLastFrameMs := rfl
@[simp] theorem State.withInbox_ibusInited (rs : List (List Byte)) : (s.withInbox rs).ibusInited = s.ibusInited := rfl
@[simp] theorem State.withInbox_rxq (rs : List (List Byte)) : (s.withInbox rs).rxq = s.rxq := rfl
@[simp] theorem State.withInbox_time (rs : List (List Byte)) : (s.withInbox rs).time = s.time := rfl
@[simp] theorem State.withInbox_cfg (rs : List (List Byte)) : (s.withInbox rs).cfg = s.cfg := rfl
@[simp] theorem State.withInbox_ibusAns (rs : List (List Byte)) : (s.withInbox rs).ibusAns = s.ibusAns := rfl
@[simp] theorem State.withInbox_ibusCalls (rs : List (List Byte)) : (s.withInbox rs).ibusCalls = s.ibusCalls := rfl
@[simp] theorem State.withInbox_inbox (rs : List (List Byte)) : (s.withInbox rs).inbox = rs := rfl
@[simp] theorem State.withInbox_out (rs : List (List Byte)) : (s.withInbox rs).out = s.out := rfl
@[simp] theorem State.withInbox_log (rs : List (List Byte)) : (s.withInbox rs).log = s.log := rfl

/-! ### withByte -/

@[simp] theorem State.withByte_ch (b : Byte) (h : s.idx.toNat < 64) : (s.withByte b h).ch = s.ch := rfl
@[simp] theorem State.withByte_psel (b : Byte) (h : s.idx.toNat < 64) : (s.withByte b h).psel = s.psel := rfl
@[simp] theorem State.withByte_buf (b : Byte) (h : s.idx.toNat < 64) : (s.withByte b h).buf = s.buf.set s.idx.toNat b h := rfl
@[simp] theorem State.withByte_idx (b : Byte) (h : s.idx.toNat < 64) : (s.withByte b h).idx = s.idx + 1 := rfl
@[simp] theorem State.withByte_expLen (b : Byte) (h : s.idx.toNat < 64) : (s.withByte b h).expLen = s.expLen := rfl
@[simp] theorem State.withByte_lastByteMs (b : Byte) (h : s.idx.toNat < 64) : (s.withByte b h).lastByteMs = s.lastByteMs := rfl
@[simp] theorem State.withByte_lastFrameMs (b : Byte) (h : s.idx.toNat < 64) : (s.withByte b h).lastFrameMs = s.lastFrameMs := rfl
@[simp] theorem State.withByte_lastEdgeUs (b : Byte) (h : s.idx.toNat < 64) : (s.withByte b h).lastEdgeUs = s.lastEdgeUs := rfl
@[simp] theorem State.withByte_pw (b : Byte) (h : s.idx.toNat < 64) : (s.withByte b h).pw = s.pw := rfl
@[simp] theorem State.withByte_ppmIdx (b : Byte) (h : s.idx.toNat < 64) : (s.withByte b h).ppmIdx = s.ppmIdx := rfl
@[simp] theorem State.withByte_lat (b : Byte) (h : s.idx.toNat < 64) : (s.withByte b h).lat = s.lat := rfl
@[simp] theorem State.withByte_latN (b : Byte) (h : s.idx.toNat < 64) : (s.withByte b h).latN = s.latN := rfl
@[simp] theorem State.withByte_fc (b : Byte) (h : s.idx.toNat < 64) : (s.withByte b h).fc = s.fc := rfl
@[simp] theorem State.withByte_missed (b : Byte) (h : s.idx.toNat < 64) : (s.withByte b h).missed = s.missed := rfl
@[simp] theorem State.withByte_ppmLastFrameMs (b : Byte) (h : s.idx.toNat < 64) : (s.withByte b h).ppmLastFrameMs = s.ppmLastFrameMs := rfl
@[simp] theorem State.withByte_ibusInited (b : Byte) (h : s.idx.toNat < 64) : (s.withByte b h).ibusInited = s.ibusInited := rfl
@[simp] theorem State.withByte_rxq (b : Byte) (h : s.idx.toNat < 64) : (s.withByte b h).rxq = s.rxq := rfl
@[simp] theorem State.withByte_time (b : Byte) (h : s.idx.toNat < 64) : (s.withByte b h).time = s.time := rfl
@[simp] theorem State.withByte_cfg (b : Byte) (h : s.idx.toNat < 64) : (s.withByte b h).cfg = s.cfg := rfl
@[simp] theorem State.withByte_ibusAns (b : Byte) (h : s.idx.toNat < 64) : (s.withByte b h).ibusAns = s.ibusAns := rfl
@[simp] theorem State.withByte_ibusCalls (b : Byte) (h : s.idx.toNat < 64) : (s.withByte b h).ibusCalls = s.ibusCalls := rfl
@[simp] theorem State.withByte_inbox (b : Byte) (h : s.idx.toNat < 64) : (s.withByte b h).inbox = s.inbox := rfl
@[simp] theorem State.withByte_out (b : Byte) (h : s.idx.toNat < 64) : (s.withByte b h).out = s.out := rfl
@[simp] theorem State.withByte_log (b : Byte) (h : s.idx.toNat < 64) : (s.withByte b h).log = s.log := rfl

end Sys2Proof.Machine
end

