-- ==== Sys2Proof/Laws/Ops.lean ====
section
/-! SUPPORT. For each shared operation, what it can do, said once: the provers cite these instead of unfolding. -/

namespace Sys2Proof.Machine

/-! ### Outcomes -/

@[simp] theorem ran_ok (s : State) : ran (.ok s) = .next s := rfl

@[simp] theorem ran_error (f : Fault) : ran (.error f) = .fault f := rfl

theorem ran_next_iff {r : Except Fault State} {s : State} : ran r = .next s ↔ r = .ok s := by
  cases r <;> simp [ran]

theorem ranVerdict_next_iff {r : Except Fault (State × Verdict)} {t : State} :
    ranVerdict r = .next t ↔ ∃ s v, r = .ok (s, v) ∧ t = s.withOut (.verdict v) := by
  cases r with
  | error f => simp [ranVerdict]
  | ok p =>
    obtain ⟨s, v⟩ := p
    constructor
    · intro h
      exact ⟨s, v, rfl, by simpa [ranVerdict] using h.symm⟩
    · rintro ⟨s', v', h, rfl⟩
      cases h
      rfl

/-! ### Framing primitives -/

/-- R112: either the partial frame is dropped or it is kept; `last_byte_ms` takes `now` in both. -/
theorem gapCheck_cases (lim : Nat) (now : Stamp) (s : State) :
    (s.idx ≠ 0 ∧ lim < elapsed now s.lastByteMs ∧
      gapCheck lim now s = ((s.raise (.eGap s.idx)).withIdx 0).withByteStamp now) ∨
    ((s.idx = 0 ∨ elapsed now s.lastByteMs ≤ lim) ∧ gapCheck lim now s = s.withByteStamp now) := by
  unfold gapCheck
  split
  · rename_i h; exact .inl ⟨h.1, h.2, rfl⟩
  · rename_i h
    refine .inr ⟨?_, rfl⟩
    by_contra hc
    simp only [not_or, not_le] at hc
    exact h ⟨hc.1, hc.2⟩

/-- After R112 the fill index is what it was, or 0. -/
theorem gapCheck_idx (lim : Nat) (now : Stamp) (s : State) :
    (gapCheck lim now s).idx = 0 ∨ (gapCheck lim now s).idx = s.idx := by
  rcases gapCheck_cases lim now s with ⟨-, -, h⟩ | ⟨-, h⟩ <;> simp [h]

/-- R115: a store succeeds exactly when the index is in the buffer. -/
theorem storeByte_ok_iff {b : Byte} {s t : State} :
    storeByte b s = .ok t ↔ ∃ h : s.idx.toNat < 64, t = s.withByte b h := by
  unfold storeByte
  split
  · rename_i h; simp [h, eq_comm]
  · rename_i h; simp [h]

theorem storeByte_of_lt {b : Byte} {s : State} (h : s.idx.toNat < 64) : storeByte b s = .ok (s.withByte b h) :=
  storeByte_ok_iff.mpr ⟨h, rfl⟩

/-! ### The drain loop -/

@[simp] theorem drain_nil (op : Byte → State → Except Fault (State × Verdict)) (s : State) :
    drain op [] s = .ok (s.withRxq [], false) := rfl

theorem drain_accept {op : Byte → State → Except Fault (State × Verdict)} {b : Byte} {q : List Byte} {s s' : State}
    (h : op b (s.withRxq q) = .ok (s', .accept)) : drain op (b :: q) s = .ok (s', true) := by
  simp [drain, h]

theorem drain_goes_on {op : Byte → State → Except Fault (State × Verdict)} {b : Byte} {q : List Byte} {s s' : State}
    {v : Verdict} (h : op b (s.withRxq q) = .ok (s', v)) (hv : v ≠ .accept) :
    drain op (b :: q) s = drain op q s' := by
  simp [drain, h, hv]

/-- A property that the byte operation keeps, whatever it answers, is kept by the loop. -/
theorem drain_keeps {op : Byte → State → Except Fault (State × Verdict)} (P : State → Prop)
    (hq : ∀ s q, P s → P (s.withRxq q))
    (hop : ∀ b s s' v, P s → op b s = .ok (s', v) → P s') :
    ∀ (q : List Byte) (s s' : State) (r : Bool), P s → drain op q s = .ok (s', r) → P s' := by
  intro q
  induction q with
  | nil =>
    intro s s' r hs h
    simp only [drain_nil, Except.ok.injEq, Prod.mk.injEq] at h
    exact h.1 ▸ hq s [] hs
  | cons b q ih =>
    intro s s' r hs h
    unfold drain at h
    split at h
    · cases h
    · rename_i s1 v hb
      have h1 := hop b _ _ _ (hq s q hs) hb
      split at h
      · simp only [Except.ok.injEq, Prod.mk.injEq] at h
        exact h.1 ▸ h1
      · exact ih s1 s' r h1 h

/-- Where the byte operation always answers and keeps a property, so does the loop. -/
theorem drain_total {op : Byte → State → Except Fault (State × Verdict)} (P : State → Prop)
    (hq : ∀ s q, P s → P (s.withRxq q))
    (hop : ∀ b s, P s → ∃ s' v, op b s = .ok (s', v) ∧ P s') :
    ∀ (q : List Byte) (s : State), P s → ∃ s' r, drain op q s = .ok (s', r) ∧ P s' := by
  intro q
  induction q with
  | nil => intro s hs; exact ⟨_, _, rfl, hq s [] hs⟩
  | cons b q ih =>
    intro s hs
    obtain ⟨s1, v, hb, h1⟩ := hop b _ (hq s q hs)
    by_cases hv : v = .accept
    · subst hv; exact ⟨s1, true, drain_accept hb, h1⟩
    · obtain ⟨s2, r, h2, h3⟩ := ih s1 h1
      exact ⟨s2, r, (drain_goes_on hb hv).trans h2, h3⟩

/-- What a byte-stream STEP answers (R121): the drained state with `step_ok`, and E_LOS only on a failed step. -/
theorem byteStreamStep_ok_cases {op : Byte → State → Except Fault (State × Verdict)} {lim : Nat} {now : Stamp}
    {s t : State} (h : byteStreamStep op lim now s = .ok t) :
    (∃ s', drain op s.rxq s = .ok (s', true) ∧ t = s'.withOut (.stepOk true)) ∨
    (∃ s', drain op s.rxq s = .ok (s', false) ∧ elapsed now s'.lastFrameMs ≤ lim ∧ t = s'.withOut (.stepOk false)) ∨
    (∃ s', drain op s.rxq s = .ok (s', false) ∧ lim < elapsed now s'.lastFrameMs ∧
      t = (s'.raise .eLos).withOut (.stepOk false)) := by
  unfold byteStreamStep at h
  split at h
  · cases h
  · rename_i s' hd; exact .inl ⟨s', hd, by simpa using h.symm⟩
  · rename_i s' hd
    simp only [Except.ok.injEq] at h
    split at h
    · rename_i hl; exact .inr (.inr ⟨s', hd, hl, h.symm⟩)
    · rename_i hl; exact .inr (.inl ⟨s', hd, by omega, h.symm⟩)

/-! ### Bank copies -/

theorem copyFirst_get (n : Nat) (f : Fin 16 → Half) (old : Vector Half 16) (i : Fin 16) :
    (copyFirst n f old)[i] = if i.val < n then f i else old[i] := by
  simp [copyFirst]

theorem unpackChannels_get (p : Vector Byte 22) (i : Fin 16) :
    (unpackChannels p)[i] = normS11 (unpack11le p (BitVec.ofFin i)) := by
  simp [unpackChannels]

/-! ### Frame operations -/

/-- What SBUS.FRAME does (R127): a label and rejection, or all sixteen channels and the stamp. -/
theorem sbusFrame_cases (now : Stamp) (s : State) :
    (∃ l, sbusFrame now s = (s.raise l, .reject)) ∨
    sbusFrame now s = ((s.withCh (unpackChannels (payloadAt s.buf 1))).withFrameStamp now, .accept) := by
  unfold sbusFrame
  split
  · exact .inl ⟨_, rfl⟩
  · split
    · exact .inl ⟨_, rfl⟩
    · exact .inr rfl

/-- What FPORT.FRAME does (R157). -/
theorem fportFrame_cases (now : Stamp) (s : State) :
    (∃ l, fportFrame now s = (s.raise l, .reject)) ∨
    fportFrame now s = ((s.withCh (unpackChannels (payloadAt s.buf 3))).withFrameStamp now, .accept) := by
  unfold fportFrame
  repeat' split
  · exact .inl ⟨_, rfl⟩
  · exact .inl ⟨_, rfl⟩
  · exact .inl ⟨_, rfl⟩
  · exact .inr rfl

/-- What CRSF.FRAME does (R137) where its checksum byte lies in the buffer. -/
theorem crsfFrame_cases (now : Stamp) (s : State) (h : s.buf[1].toNat + 1 < 64) :
    (∃ l, crsfFrame now s = .ok (s.raise l, .reject)) ∨
    crsfFrame now s = .ok ((s.withCh (unpackChannels (payloadAt s.buf 3))).withFrameStamp now, .accept) := by
  unfold crsfFrame
  rw [dif_pos h]
  split
  · exact .inl ⟨_, rfl⟩
  · split
    · exact .inl ⟨_, rfl⟩
    · exact .inr rfl

end Sys2Proof.Machine
end

