-- ==== Sys2Proof/Laws/Framing.lean ====
section
/-! SUPPORT. Accumulating a frame in the buffer (42_framing.md R115): what a run of stored bytes leaves. -/

namespace Sys2Proof.Machine

/-- Within one step the second byte popped is never late: both have the step's time. -/
theorem gapCheck_of_same_stamp {lim : Nat} {now : Stamp} {s : State} (h : s.lastByteMs = now) :
    gapCheck lim now s = s := by
  unfold gapCheck
  rw [if_neg]
  · apply State.ext <;> simp [h]
  · rintro ⟨-, h2⟩
    simp [elapsed, h] at h2

/-- With no partial frame nothing is dropped. -/
theorem gapCheck_of_search {lim : Nat} {now : Stamp} {s : State} (h : s.idx = 0) :
    gapCheck lim now s = s.withByteStamp now := by
  unfold gapCheck
  rw [if_neg]
  simp [h]

theorem gapCheck_cfg (lim : Nat) (now : Stamp) (s : State) : (gapCheck lim now s).cfg = s.cfg := by
  rcases gapCheck_cases lim now s with ⟨-, -, h⟩ | ⟨-, h⟩ <;> rw [h] <;> rfl

/-- R112: "`last_byte_ms <- now`" in every case. -/
theorem gapCheck_lastByteMs (lim : Nat) (now : Stamp) (s : State) : (gapCheck lim now s).lastByteMs = now := by
  rcases gapCheck_cases lim now s with ⟨-, -, h⟩ | ⟨-, h⟩ <;> rw [h] <;> rfl

theorem gapCheck_withRxq (lim : Nat) (now : Stamp) (s : State) (q : List Byte) :
    gapCheck lim now (s.withRxq q) = (gapCheck lim now s).withRxq q := by
  rcases gapCheck_cases lim now s with ⟨h1, h2, h⟩ | ⟨h1, h⟩
  · rw [h]
    unfold gapCheck
    rw [if_pos (show (s.withRxq q).idx ≠ 0 ∧ lim < elapsed now (s.withRxq q).lastByteMs from ⟨h1, h2⟩)]
    rfl
  · rw [h]
    unfold gapCheck
    rw [if_neg]
    · rfl
    · rintro ⟨a, b⟩
      rcases h1 with h1 | h1
      · exact a h1
      · exact absurd b (by show ¬ lim < elapsed now s.lastByteMs; omega)

/-- A byte operation that begins with R112 sees no difference when R112 has already been applied, so the first byte of
a step may be taken from the state after it. -/
theorem drain_gapCheck {op : Byte → State → Except Fault (State × Verdict)} {lim : Cfg → Nat} {now : Stamp}
    (h : ∀ b s, op b s = op b (gapCheck (lim s.cfg) now s)) (b : Byte) (q : List Byte) (s : State) :
    drain op (b :: q) s = drain op (b :: q) (gapCheck (lim s.cfg) now s) := by
  have e : op b (s.withRxq q) = op b ((gapCheck (lim s.cfg) now s).withRxq q) := by
    rw [h b (s.withRxq q), ← gapCheck_withRxq]
    rfl
  simp only [drain, e]

/-- The fill index counts without wrapping while it is in the buffer. -/
theorem idx_add_one_toNat {s : State} (h : s.idx.toNat < 64) : (s.idx + 1).toNat = s.idx.toNat + 1 := by
  simp [BitVec.toNat_add]
  omega

/-- The buffer with `bs` written from byte `i` on. -/
@[irreducible] def overlay (buf : Vector Byte 64) (i : Nat) (bs : List Byte) : Vector Byte 64 :=
  Vector.ofFn fun j => if i ≤ j.val ∧ j.val < i + bs.length then bs.getD (j.val - i) 0 else buf[j]

theorem overlay_nil (buf : Vector Byte 64) (i : Nat) : overlay buf i [] = buf := by
  apply Vector.ext
  intro j hj
  simp [overlay]

theorem overlay_cons (buf : Vector Byte 64) (i : Nat) (b : Byte) (bs : List Byte) (h : i < 64) :
    overlay buf i (b :: bs) = overlay (buf.set i b h) (i + 1) bs := by
  apply Vector.ext
  intro j hj
  simp only [overlay, Vector.getElem_ofFn, List.length_cons, Fin.getElem_fin, Vector.getElem_set]
  by_cases h1 : i = j
  · subst h1; simp
  · by_cases h2 : i + 1 ≤ j ∧ j < i + 1 + bs.length
    · rw [if_pos h2, if_pos (by omega)]
      have : j - i = (j - (i + 1)) + 1 := by omega
      rw [this]; simp
    · rw [if_neg h2, if_neg (by omega), if_neg h1]

theorem overlay_append (buf : Vector Byte 64) (i : Nat) (a b : List Byte) (h : i + a.length + b.length ≤ 64) :
    overlay buf i (a ++ b) = overlay (overlay buf i a) (i + a.length) b := by
  induction a generalizing buf i with
  | nil => simp [overlay_nil]
  | cons x a ih =>
    simp only [List.length_cons] at h
    rw [overlay_cons _ _ _ _ (by omega), List.cons_append, overlay_cons _ _ _ _ (by omega), ih _ _ (by omega)]
    congr 1
    simp; omega

theorem overlay_get (buf : Vector Byte 64) (i j : Nat) (bs : List Byte) (h : j < 64) :
    (overlay buf i bs)[j] = if i ≤ j ∧ j < i + bs.length then bs.getD (j - i) 0 else buf[j] := by
  simp [overlay]

/-- A frame placed from byte 0 on is the buffer it leaves when it is stored byte by byte. -/
theorem frameInto_eq_overlay (buf : Vector Byte 64) (f : List Byte) : frameInto buf f = overlay buf 0 f := by
  apply Vector.ext
  intro j hj
  simp only [overlay, frameInto, Vector.getElem_ofFn, Nat.zero_le, true_and, Nat.zero_add, Nat.sub_zero]
  split
  · rename_i h; simp [h]
  · rename_i h; simp [List.getElem?_eq_none (Nat.le_of_not_lt h)]

theorem frameInto_get (buf : Vector Byte 64) (f : List Byte) (i : Nat) (h : i < 64) (hf : i < f.length) :
    (frameInto buf f)[i] = f[i] := by
  simp [frameInto, hf]

theorem frameInto_slice (buf : Vector Byte 64) (f : List Byte) (a n : Nat) (h : a + n ≤ f.length)
    (hf : f.length ≤ 64) : ((frameInto buf f).toList.drop a).take n = (f.drop a).take n := by
  apply List.ext_getElem
  · simp; omega
  · intro i h1 h2
    simp only [List.length_take, List.length_drop, Vector.length_toList] at h1
    simp only [List.getElem_take, List.getElem_drop, Vector.getElem_toList]
    rw [frameInto_get _ _ _ _ (by omega)]

/-- The payload of a frame that stands in the buffer. -/
theorem payloadAt_frameInto (buf : Vector Byte 64) (pre : List Byte) (p : Vector Byte 22) (post : List Byte)
    (off : Fin 43) (h : pre.length = off.val) : payloadAt (frameInto buf (pre ++ (p.toList ++ post))) off = p := by
  apply Vector.ext
  intro i hi
  simp only [payloadAt, frameInto, Vector.getElem_ofFn]
  rw [List.getD_append_right _ _ _ _ (by omega), List.getD_append _ _ _ _ (by simp; omega)]
  have e : off.val + i - pre.length = i := by omega
  rw [e]
  simp [hi]

/-- Write the frame buffer, the fill index and the queue at once. -/
def State.withFrame (s : State) (buf : Vector Byte 64) (idx : BitVec 7) (q : List Byte) : State :=
  { s with buf := buf, idx := idx, rxq := q }

section

variable (s : State) (buf : Vector Byte 64) (idx : BitVec 7) (q : List Byte)

@[simp] theorem State.withFrame_buf : (s.withFrame buf idx q).buf = buf := rfl
@[simp] theorem State.withFrame_idx : (s.withFrame buf idx q).idx = idx := rfl
@[simp] theorem State.withFrame_rxq : (s.withFrame buf idx q).rxq = q := rfl
@[simp] theorem State.withFrame_ch : (s.withFrame buf idx q).ch = s.ch := rfl
@[simp] theorem State.withFrame_psel : (s.withFrame buf idx q).psel = s.psel := rfl
@[simp] theorem State.withFrame_expLen : (s.withFrame buf idx q).expLen = s.expLen := rfl
@[simp] theorem State.withFrame_lastByteMs : (s.withFrame buf idx q).lastByteMs = s.lastByteMs := rfl
@[simp] theorem State.withFrame_lastFrameMs : (s.withFrame buf idx q).lastFrameMs = s.lastFrameMs := rfl
@[simp] theorem State.withFrame_lastEdgeUs : (s.withFrame buf idx q).lastEdgeUs = s.lastEdgeUs := rfl
@[simp] theorem State.withFrame_pw : (s.withFrame buf idx q).pw = s.pw := rfl
@[simp] theorem State.withFrame_ppmIdx : (s.withFrame buf idx q).ppmIdx = s.ppmIdx := rfl
@[simp] theorem State.withFrame_lat : (s.withFrame buf idx q).lat = s.lat := rfl
@[simp] theorem State.withFrame_latN : (s.withFrame buf idx q).latN = s.latN := rfl
@[simp] theorem State.withFrame_fc : (s.withFrame buf idx q).fc = s.fc := rfl
@[simp] theorem State.withFrame_missed : (s.withFrame buf idx q).missed = s.missed := rfl
@[simp] theorem State.withFrame_ppmLastFrameMs : (s.withFrame buf idx q).ppmLastFrameMs = s.ppmLastFrameMs := rfl
@[simp] theorem State.withFrame_ibusInited : (s.withFrame buf idx q).ibusInited = s.ibusInited := rfl
@[simp] theorem State.withFrame_time : (s.withFrame buf idx q).time = s.time := rfl
@[simp] theorem State.withFrame_cfg : (s.withFrame buf idx q).cfg = s.cfg := rfl
@[simp] theorem State.withFrame_ibusAns : (s.withFrame buf idx q).ibusAns = s.ibusAns := rfl
@[simp] theorem State.withFrame_ibusCalls : (s.withFrame buf idx q).ibusCalls = s.ibusCalls := rfl
@[simp] theorem State.withFrame_inbox : (s.withFrame buf idx q).inbox = s.inbox := rfl
@[simp] theorem State.withFrame_out : (s.withFrame buf idx q).out = s.out := rfl
@[simp] theorem State.withFrame_log : (s.withFrame buf idx q).log = s.log := rfl

end

/-- The state after the bytes `bs` have been stored from the fill index on, `q` being left in the queue. -/
abbrev State.withStored (s : State) (bs q : List Byte) : State :=
  s.withFrame (overlay s.buf s.idx.toNat bs) (BitVec.ofNat 7 (s.idx.toNat + bs.length)) q

theorem State.withStored_nil (s : State) (q : List Byte) : s.withStored [] q = s.withRxq q := by
  apply State.ext <;> simp [overlay_nil]

theorem State.withStored_cons (s : State) (b : Byte) (bs q q' : List Byte) (h : (s.withRxq q').idx.toNat < 64) :
    ((s.withRxq q').withByte b h).withStored bs q = s.withStored (b :: bs) q := by
  have h' : s.idx.toNat < 64 := h
  have hi : ((s.withRxq q').withByte b h).idx.toNat = s.idx.toNat + 1 := idx_add_one_toNat h'
  unfold State.withStored
  rw [hi, overlay_cons _ _ _ _ h', List.length_cons, Nat.add_assoc, Nat.add_comm 1]
  rfl

/-- Bytes that a byte operation only stores are stored one after another, the loop going on with the rest: `lo` and
`len` bound the indices at which it only stores. -/
theorem drain_stores {op : Byte → State → Except Fault (State × Verdict)} (now : Stamp) (len lo : Nat) (h64 : len ≤ 64)
    (P : State → Prop) (hP : ∀ s q, P s → P (s.withRxq q))
    (hs : ∀ b s (h : s.idx.toNat < 64), P s → P (s.withByte b h))
    (hop : ∀ b s (h : s.idx.toNat < 64), lo ≤ s.idx.toNat → s.idx.toNat + 1 < len → s.lastByteMs = now → P s →
      op b s = .ok (s.withByte b h, .none)) :
    ∀ (bs q : List Byte) (s : State), lo ≤ s.idx.toNat → s.idx.toNat + bs.length < len → s.lastByteMs = now → P s →
      drain op (bs ++ q) s = drain op q (if bs = [] then s else s.withStored bs q) ∧ P (s.withStored bs q) := by
  intro bs
  induction bs with
  | nil =>
    intro q s _ _ _ h4
    exact ⟨rfl, s.withStored_nil q ▸ hP s q h4⟩
  | cons b bs ih =>
    intro q s h1 h2 h3 h4
    simp only [List.length_cons] at h2
    have hlt : (s.withRxq (bs ++ q)).idx.toNat < 64 := by simp only [State.withRxq_idx]; omega
    have hi : ((s.withRxq (bs ++ q)).withByte b hlt).idx.toNat = s.idx.toNat + 1 := idx_add_one_toNat hlt
    have h5 := hop b (s.withRxq (bs ++ q)) hlt h1 (by simp only [State.withRxq_idx]; omega) h3 (hP s _ h4)
    have h6 := hs b (s.withRxq (bs ++ q)) hlt (hP s _ h4)
    have h7 := ih q ((s.withRxq (bs ++ q)).withByte b hlt) (by omega) (by omega) h3 h6
    rw [State.withStored_cons] at h7
    rw [List.cons_append, drain_goes_on h5 (by simp), h7.1, if_neg (List.cons_ne_nil b bs)]
    refine ⟨?_, h7.2⟩
    split
    · rename_i hb
      subst hb
      rw [← State.withStored_cons s b [] q ([] ++ q) hlt, State.withStored_nil]
      rfl
    · rfl

/-- The end of a frame: bytes that are only stored, and the byte that completes it, after which `fin` runs on the whole
frame in sync search. -/
theorem drain_completes {op : Byte → State → Except Fault (State × Verdict)} (now : Stamp) (len lo : Nat)
    (h64 : len ≤ 64) (P : State → Prop) (hP : ∀ s q, P s → P (s.withRxq q))
    (hs : ∀ b s (h : s.idx.toNat < 64), P s → P (s.withByte b h))
    (hop : ∀ b s (h : s.idx.toNat < 64), lo ≤ s.idx.toNat → s.idx.toNat + 1 < len → s.lastByteMs = now → P s →
      op b s = .ok (s.withByte b h, .none))
    (fin : State → Except Fault (State × Verdict))
    (hlast : ∀ b s (h : s.idx.toNat < 64), s.idx.toNat + 1 = len → s.lastByteMs = now → P s →
      op b s = fin ((s.withByte b h).withIdx 0))
    (mid : List Byte) (b : Byte) (more : List Byte) (s r : State) (v : Verdict) (h1 : lo ≤ s.idx.toNat)
    (h2 : s.idx.toNat + mid.length + 1 = len) (h3 : s.lastByteMs = now) (h4 : P s)
    (hfin : fin (s.withFrame (overlay s.buf s.idx.toNat (mid ++ [b])) 0 more) = .ok (r, v)) :
    drain op (mid ++ b :: more) s = if v = .accept then .ok (r, true) else drain op more r := by
  obtain ⟨s', e1, e2, e3⟩ : ∃ s', drain op (mid ++ b :: more) s = drain op (b :: more) s' ∧
      s'.withRxq more = s.withStored mid more ∧ P (s'.withRxq more) := by
    have hm := drain_stores now len lo h64 P hP hs hop mid (b :: more) s h1 (by omega) h3 h4
    refine ⟨_, hm.1, ?_⟩
    split
    · rename_i hh
      subst hh
      rw [State.withStored_nil]
      exact ⟨rfl, hP _ _ h4⟩
    · exact ⟨rfl, hP _ _ hm.2⟩
  have hi : (s.withStored mid more).idx.toNat = s.idx.toNat + mid.length := by
    simp; omega
  have hlt : (s'.withRxq more).idx.toNat < 64 := by rw [e2, hi]; omega
  have hx : ((s'.withRxq more).withByte b hlt).withIdx 0 =
      s.withFrame (overlay s.buf s.idx.toNat (mid ++ [b])) 0 more := by
    rw [overlay_append _ _ _ _ (by simp; omega), overlay_cons _ _ _ _ (by omega), overlay_nil]
    have e2' : s'.withRxq more = s.withStored mid more := e2
    simp only [e2']
    apply State.ext <;> simp
    congr 1
  have ho := hlast b (s'.withRxq more) hlt (by rw [e2, hi]; exact h2) (by rw [e2]; exact h3) e3
  rw [hx, hfin] at ho
  rw [e1]
  split
  · rename_i hv; subst hv; exact drain_accept ho
  · rename_i hv; exact drain_goes_on ho hv

end Sys2Proof.Machine
end

