-- ==== Sys2Proof/Laws/PerInstr.lean ====
section
/-! SUPPORT. Statements about every operation as syntax, one lemma a constructor. -/

namespace Sys2Proof

/-- The length of an operation's record: its code byte and its operands (log entry 8). -/
def Instr.recordLength : Instr → Nat
  | .reset _ => 2
  | .rxpush _ => 2
  | .step t => 1 + natLength t
  | .edge t => 1 + natLength t
  | .stepPpm _ => 5
  | .stepIbus => 1
  | .stepSbus _ => 5
  | .stepCrsf _ => 5
  | .stepDsm2 _ => 5
  | .stepDsmx _ => 5
  | .stepFport _ => 5
  | .stepRsvd => 1
  | .edgeNoise _ => 5
  | .edgeSyncAcc _ _ => 9
  | .edgeSyncRej _ => 5
  | .edgeChan _ => 5
  | .edgeGap _ => 5
  | .framerStep _ _ => 6
  | .sbusByte _ _ => 6
  | .sbusFrame _ => 5
  | .crsfByte _ _ => 6
  | .crsfFrame _ => 5
  | .dsmByte _ _ _ => 7
  | .dsmFrame _ _ => 6
  | .dsmPair _ _ => 4
  | .fportByte _ _ => 6
  | .fportFrame _ => 5
  | .unpack11le _ _ => 24
  | .scale raw lo hi => 1 + natLength raw + natLength lo + natLength hi
  | .normS11 _ => 3
  | .normU11 _ => 3
  | .normU10 _ => 3
  | .normPpm _ => 3
  | .normIbus _ => 3

namespace Laws.EncodedSize

/-- The record an operation is encoded as has the length of its kind. -/
def Statement (i : Instr) : Prop := (encode i).length = i.recordLength

theorem reset (a : Psel) : Statement (.reset a) := by
  simp [Statement, encode, Instr.operandBytes, Instr.recordLength]

theorem rxpush (a : Byte) : Statement (.rxpush a) := by
  simp [Statement, encode, Instr.operandBytes, Instr.recordLength]

theorem step (a : Nat) : Statement (.step a) := by
  simp [Statement, encode, Instr.operandBytes, Instr.recordLength, Nat.add_comm]

theorem edge (a : Nat) : Statement (.edge a) := by
  simp [Statement, encode, Instr.operandBytes, Instr.recordLength, Nat.add_comm]

theorem stepPpm (a : Stamp) : Statement (.stepPpm a) := by
  simp [Statement, encode, Instr.operandBytes, Instr.recordLength]

theorem stepIbus : Statement .stepIbus := rfl

theorem stepSbus (a : Stamp) : Statement (.stepSbus a) := by
  simp [Statement, encode, Instr.operandBytes, Instr.recordLength]

theorem stepCrsf (a : Stamp) : Statement (.stepCrsf a) := by
  simp [Statement, encode, Instr.operandBytes, Instr.recordLength]

theorem stepDsm2 (a : Stamp) : Statement (.stepDsm2 a) := by
  simp [Statement, encode, Instr.operandBytes, Instr.recordLength]

theorem stepDsmx (a : Stamp) : Statement (.stepDsmx a) := by
  simp [Statement, encode, Instr.operandBytes, Instr.recordLength]

theorem stepFport (a : Stamp) : Statement (.stepFport a) := by
  simp [Statement, encode, Instr.operandBytes, Instr.recordLength]

theorem stepRsvd : Statement .stepRsvd := rfl

theorem edgeNoise (a : Stamp) : Statement (.edgeNoise a) := by
  simp [Statement, encode, Instr.operandBytes, Instr.recordLength]

theorem edgeSyncAcc (a : Stamp) (b : Stamp) : Statement (.edgeSyncAcc a b) := by
  simp [Statement, encode, Instr.operandBytes, Instr.recordLength]

theorem edgeSyncRej (a : Stamp) : Statement (.edgeSyncRej a) := by
  simp [Statement, encode, Instr.operandBytes, Instr.recordLength]

theorem edgeChan (a : Stamp) : Statement (.edgeChan a) := by
  simp [Statement, encode, Instr.operandBytes, Instr.recordLength]

theorem edgeGap (a : Stamp) : Statement (.edgeGap a) := by
  simp [Statement, encode, Instr.operandBytes, Instr.recordLength]

theorem framerStep (a : Policy) (b : Stamp) : Statement (.framerStep a b) := by
  simp [Statement, encode, Instr.operandBytes, Instr.recordLength]

theorem sbusByte (a : Byte) (b : Stamp) : Statement (.sbusByte a b) := by
  simp [Statement, encode, Instr.operandBytes, Instr.recordLength]

theorem sbusFrame (a : Stamp) : Statement (.sbusFrame a) := by
  simp [Statement, encode, Instr.operandBytes, Instr.recordLength]

theorem crsfByte (a : Byte) (b : Stamp) : Statement (.crsfByte a b) := by
  simp [Statement, encode, Instr.operandBytes, Instr.recordLength]

theorem crsfFrame (a : Stamp) : Statement (.crsfFrame a) := by
  simp [Statement, encode, Instr.operandBytes, Instr.recordLength]

theorem dsmByte (a : Byte) (b : Stamp) (c : Width) : Statement (.dsmByte a b c) := by
  simp [Statement, encode, Instr.operandBytes, Instr.recordLength]

theorem dsmFrame (a : Stamp) (b : Width) : Statement (.dsmFrame a b) := by
  simp [Statement, encode, Instr.operandBytes, Instr.recordLength]

theorem dsmPair (a : Half) (b : Width) : Statement (.dsmPair a b) := by
  simp [Statement, encode, Instr.operandBytes, Instr.recordLength]

theorem fportByte (a : Byte) (b : Stamp) : Statement (.fportByte a b) := by
  simp [Statement, encode, Instr.operandBytes, Instr.recordLength]

theorem fportFrame (a : Stamp) : Statement (.fportFrame a) := by
  simp [Statement, encode, Instr.operandBytes, Instr.recordLength]

theorem unpack11le (a : Vector Byte 22) (b : BitVec 4) : Statement (.unpack11le a b) := by
  simp [Statement, encode, Instr.operandBytes, Instr.recordLength]

theorem scale (a : Nat) (b : Nat) (c : Nat) : Statement (.scale a b c) := by
  simp [Statement, encode, Instr.operandBytes, Instr.recordLength]
  omega

theorem normS11 (a : BitVec 11) : Statement (.normS11 a) := by
  simp [Statement, encode, Instr.operandBytes, Instr.recordLength]

theorem normU11 (a : BitVec 11) : Statement (.normU11 a) := by
  simp [Statement, encode, Instr.operandBytes, Instr.recordLength]

theorem normU10 (a : BitVec 10) : Statement (.normU10 a) := by
  simp [Statement, encode, Instr.operandBytes, Instr.recordLength]

theorem normPpm (a : Half) : Statement (.normPpm a) := by
  simp [Statement, encode, Instr.operandBytes, Instr.recordLength]

theorem normIbus (a : Half) : Statement (.normIbus a) := by
  simp [Statement, encode, Instr.operandBytes, Instr.recordLength]

end Laws.EncodedSize

end Sys2Proof
end

