-- ==== Sys2Proof/Laws/Streams.lean ====
section
/-! SUPPORT. A byte-stream STEP byte by byte (42_framing.md R111, R117, R119): what one byte has the STEP do, and what the
byte operations neither read nor write. -/

namespace Sys2Proof.Machine

/-! ### The result last returned is not read -/

/-- The operation neither reads the result last returned nor writes it. -/
abbrev IgnoresOut (op : State → Except Fault (State × Verdict)) : Prop :=
  ∀ s o, op (s.withOut o) = (op s).map fun p => (p.1.withOut o, p.2)

/-- Then the loop does not read it either. -/
theorem drain_withOut {op : Byte → State → Except Fault (State × Verdict)} (h : ∀ b, IgnoresOut (op b)) (o : Output) :
    ∀ (q : List Byte) (s : State), drain op q (s.withOut o) = (drain op q s).map fun p => (p.1.withOut o, p.2) := by
  intro q
  induction q with
  | nil => intro s; rfl
  | cons b q ih =>
    intro s
    have e : op b ((s.withOut o).withRxq q) = (op b (s.withRxq q)).map fun p => (p.1.withOut o, p.2) := h b (s.withRxq q) o
    simp only [drain, e]
    cases op b (s.withRxq q) with
    | error f => rfl
    | ok p =>
      by_cases hv : p.2 = .accept
      · simp [Except.map, hv]
      · simp [Except.map, hv, ih]

/-- So a byte-stream STEP does not read it either. -/
theorem byteStreamStep_withOut {op : Byte → State → Except Fault (State × Verdict)} (h : ∀ b, IgnoresOut (op b))
    (lim : Nat) (now : Stamp) (s : State) (o : Output) :
    byteStreamStep op lim now (s.withOut o) = byteStreamStep op lim now s := by
  unfold byteStreamStep
  rw [show (s.withOut o).rxq = s.rxq from rfl, drain_withOut h]
  cases drain op s.rxq s with
  | error f => rfl
  | ok p =>
    obtain ⟨t, v⟩ := p
    cases v
    · show Except.ok _ = Except.ok _
      congr 1
      show (if lim < elapsed now t.lastFrameMs then (t.withOut o).raise .eLos else t.withOut o).withOut _ = _
      split <;> rfl
    · rfl

/-- R115 does not read the result last returned, nor write it. -/
theorem storeByte_withOut (b : Byte) (s : State) (o : Output) :
    storeByte b (s.withOut o) = (storeByte b s).map fun t => t.withOut o := by
  by_cases h : s.idx.toNat < 64
  · rw [storeByte_of_lt h, storeByte_of_lt (s := s.withOut o) h]
    rfl
  · simp [storeByte, h, Except.map]

/-- R112 does not read the result last returned, nor write it. -/
theorem gapCheck_withOut (lim : Nat) (now : Stamp) (s : State) (o : Output) :
    gapCheck lim now (s.withOut o) = (gapCheck lim now s).withOut o := by
  by_cases h1 : s.idx = 0 <;> by_cases h2 : lim < elapsed now s.lastByteMs <;>
    simp only [gapCheck, State.withOut_idx, State.withOut_lastByteMs, h1, h2, ne_eq, not_true_eq_false, not_false_eq_true,
      and_true, and_false, ↓reduceIte] <;> rfl

theorem sbusFrame_withOut (now : Stamp) (s : State) (o : Output) :
    sbusFrame now (s.withOut o) = ((sbusFrame now s).1.withOut o, (sbusFrame now s).2) := by
  by_cases h1 : s.buf[24] ∈ s.cfg.sbusFooters <;> by_cases h2 : sbusFlagged s.cfg s.buf[23] = true <;>
    simp [sbusFrame, h1, h2] <;> rfl

theorem fportFrame_withOut (now : Stamp) (s : State) (o : Output) :
    fportFrame now (s.withOut o) = ((fportFrame now s).1.withOut o, (fportFrame now s).2) := by
  have e : (s.withOut o).slice 3 26 = s.slice 3 26 := rfl
  by_cases h1 : s.buf[28] = s.cfg.fportHdr <;> by_cases h2 : s.buf[2] = s.cfg.fportTypeRc <;>
    by_cases h3 : xorAll (s.slice 3 26) = s.buf[27] <;> simp [fportFrame, e, h1, h2, h3] <;> rfl

theorem crsfFrame_ignoresOut (now : Stamp) : IgnoresOut (crsfFrame now) := by
  intro s o
  have e : ∀ n, (s.withOut o).slice 1 n = s.slice 1 n := fun _ => rfl
  by_cases h : s.buf[1].toNat + 1 < 64
  · by_cases h1 : xorAll (s.slice 1 s.buf[1].toNat) = s.buf[s.buf[1].toNat + 1] <;>
      by_cases h2 : s.buf[2] ≠ s.cfg.crsfTypeRc ∨ s.buf[1] ≠ 24 <;>
      simp only [crsfFrame, State.withOut_buf, State.withOut_cfg, e, h, h1, h2, dite_true, ne_eq, not_true_eq_false,
        not_false_eq_true, if_true, if_false] <;> rfl
  · simp [crsfFrame, h, Except.map]

theorem sbusByte_ignoresOut (b : Byte) (now : Stamp) : IgnoresOut (sbusByte b now) := by
  intro s o
  simp only [sbusByte, State.withOut_cfg, gapCheck_withOut, State.withOut_idx, storeByte_withOut]
  generalize gapCheck _ now s = g
  split
  · rfl
  · cases storeByte b g with
    | error f => rfl
    | ok t =>
      by_cases h25 : t.idx = 25 <;> simp only [Except.map, State.withOut_idx, h25, ↓reduceIte]
      exact congrArg Except.ok (sbusFrame_withOut now (t.withIdx 0) o)

theorem dsmByte_ignoresOut (b : Byte) (now : Stamp) (bits : Width) : IgnoresOut (dsmByte b now bits) := by
  intro s o
  simp only [dsmByte, State.withOut_cfg, gapCheck_withOut, storeByte_withOut]
  cases storeByte b (gapCheck s.cfg.dsmByteTo now s) with
  | error f => rfl
  | ok t =>
    by_cases h16 : t.idx = 16 <;> simp only [Except.map, State.withOut_idx, h16, ↓reduceIte]
    rfl

theorem fportByte_ignoresOut (b : Byte) (now : Stamp) : IgnoresOut (fportByte b now) := by
  intro s o
  simp only [fportByte, State.withOut_cfg, gapCheck_withOut, State.withOut_idx, storeByte_withOut]
  generalize gapCheck _ now s = g
  by_cases h0 : g.idx = 0
  · by_cases h : b = g.cfg.fportHdr <;> simp only [h0, h, ne_eq, not_true_eq_false, not_false_eq_true, ↓reduceIte]
    · cases storeByte _ g <;> rfl
    · rfl
  · by_cases h1 : g.idx = 1
    · by_cases h : b = g.cfg.fportLenByte <;> simp only [h1, h, ne_eq, not_true_eq_false, not_false_eq_true, ↓reduceIte]
      · cases storeByte _ g <;> rfl
      · rfl
    · simp only [h0, h1, ↓reduceIte]
      cases storeByte b g with
      | error f => rfl
      | ok t =>
        by_cases h29 : t.idx = 29 <;> simp only [Except.map, State.withOut_idx, h29, ↓reduceIte]
        exact congrArg Except.ok (fportFrame_withOut now (t.withIdx 0) o)

theorem crsfByte_ignoresOut (b : Byte) (now : Stamp) : IgnoresOut (crsfByte b now) := by
  intro s o
  simp only [crsfByte, State.withOut_cfg, gapCheck_withOut, State.withOut_idx, storeByte_withOut]
  generalize gapCheck _ now s = g
  by_cases h0 : g.idx = 0
  · by_cases h : b = g.cfg.crsfSync <;> simp only [h0, h, ne_eq, not_true_eq_false, not_false_eq_true, ↓reduceIte]
    · cases storeByte _ g <;> rfl
    · rfl
  · by_cases h1 : g.idx = 1
    · by_cases h : b.toNat < g.cfg.crsfLenMin ∨ g.cfg.crsfLenMax < b.toNat <;> simp only [h1, h, ↓reduceIte]
      · rfl
      · cases storeByte b g <;> rfl
    · simp only [h0, h1, ↓reduceIte]
      cases storeByte b g with
      | error f => rfl
      | ok t =>
        by_cases hl : t.idx = t.expLen <;> simp only [Except.map, State.withOut_idx, State.withOut_expLen, hl, ↓reduceIte]
        exact crsfFrame_ignoresOut now (t.withIdx 0) o

/-! ### The queue and the configuration are kept -/

/-- The queue and the configuration are not the byte operation's to change. -/
abbrev KeepsQueue (op : State → Except Fault (State × Verdict)) : Prop :=
  ∀ s t v, op s = .ok (t, v) → t.rxq = s.rxq ∧ t.cfg = s.cfg

theorem gapCheck_rxq (lim : Nat) (now : Stamp) (s : State) : (gapCheck lim now s).rxq = s.rxq := by
  rcases gapCheck_cases lim now s with ⟨-, -, h⟩ | ⟨-, h⟩ <;> rw [h] <;> rfl

theorem storeByte_keeps {b : Byte} {s t : State} (h : storeByte b s = .ok t) : t.rxq = s.rxq ∧ t.cfg = s.cfg := by
  obtain ⟨_, rfl⟩ := storeByte_ok_iff.mp h
  exact ⟨rfl, rfl⟩

theorem sbusFrame_keeps (now : Stamp) (s : State) :
    (sbusFrame now s).1.rxq = s.rxq ∧ (sbusFrame now s).1.cfg = s.cfg := by
  rcases sbusFrame_cases now s with ⟨l, h⟩ | h <;> rw [h] <;> exact ⟨rfl, rfl⟩

theorem fportFrame_keeps (now : Stamp) (s : State) :
    (fportFrame now s).1.rxq = s.rxq ∧ (fportFrame now s).1.cfg = s.cfg := by
  rcases fportFrame_cases now s with ⟨l, h⟩ | h <;> rw [h] <;> exact ⟨rfl, rfl⟩

theorem crsfFrame_keepsQueue (now : Stamp) : KeepsQueue (crsfFrame now) := by
  intro s t v h
  by_cases hb : s.buf[1].toNat + 1 < 64
  · rcases crsfFrame_cases now s hb with ⟨l, e⟩ | e <;> rw [e] at h <;> cases h <;> exact ⟨rfl, rfl⟩
  · simp [crsfFrame, hb] at h

theorem sbusByte_keepsQueue (b : Byte) (now : Stamp) : KeepsQueue (sbusByte b now) := by
  intro s t v h
  have hg := gapCheck_rxq s.cfg.sbusByteTo now s
  have hc := gapCheck_cfg s.cfg.sbusByteTo now s
  unfold sbusByte at h
  generalize gapCheck s.cfg.sbusByteTo now s = g at h hg hc
  suffices key : t.rxq = g.rxq ∧ t.cfg = g.cfg from ⟨key.1.trans hg, key.2.trans hc⟩
  clear hg hc
  dsimp only at h
  split at h
  · cases h; exact ⟨rfl, rfl⟩
  · split at h
    · cases h
    · rename_i u hu
      obtain ⟨k1, k2⟩ := storeByte_keeps hu
      rw [← k1, ← k2]
      split at h
      · have e := sbusFrame_keeps now (u.withIdx 0)
        rw [Except.ok.inj h] at e
        exact e
      · cases h; exact ⟨rfl, rfl⟩

theorem dsmByte_keepsQueue (b : Byte) (now : Stamp) (bits : Width) : KeepsQueue (dsmByte b now bits) := by
  intro s t v h
  have hg := gapCheck_rxq s.cfg.dsmByteTo now s
  have hc := gapCheck_cfg s.cfg.dsmByteTo now s
  unfold dsmByte at h
  generalize gapCheck s.cfg.dsmByteTo now s = g at h hg hc
  suffices key : t.rxq = g.rxq ∧ t.cfg = g.cfg from ⟨key.1.trans hg, key.2.trans hc⟩
  clear hg hc
  dsimp only at h
  split at h
  · cases h
  · rename_i u hu
    obtain ⟨k1, k2⟩ := storeByte_keeps hu
    rw [← k1, ← k2]
    split at h <;> cases h <;> exact ⟨rfl, rfl⟩

theorem fportByte_keepsQueue (b : Byte) (now : Stamp) : KeepsQueue (fportByte b now) := by
  intro s t v h
  have hg := gapCheck_rxq s.cfg.fportByteTo now s
  have hc := gapCheck_cfg s.cfg.fportByteTo now s
  unfold fportByte at h
  generalize gapCheck s.cfg.fportByteTo now s = g at h hg hc
  suffices key : t.rxq = g.rxq ∧ t.cfg = g.cfg from ⟨key.1.trans hg, key.2.trans hc⟩
  clear hg hc
  dsimp only at h
  split at h
  · split at h
    · cases h; exact ⟨rfl, rfl⟩
    · split at h
      · cases h
      · rename_i u hu
        obtain ⟨k1, k2⟩ := storeByte_keeps hu
        rw [← k1, ← k2]
        cases h; exact ⟨rfl, rfl⟩
  · split at h
    · split at h
      · cases h; exact ⟨rfl, rfl⟩
      · split at h
        · cases h
        · rename_i u hu
          obtain ⟨k1, k2⟩ := storeByte_keeps hu
          rw [← k1, ← k2]
          cases h; exact ⟨rfl, rfl⟩
    · split at h
      · cases h
      · rename_i u hu
        obtain ⟨k1, k2⟩ := storeByte_keeps hu
        rw [← k1, ← k2]
        split at h
        · have e := fportFrame_keeps now (u.withIdx 0)
          rw [Except.ok.inj h] at e
          exact e
        · cases h; exact ⟨rfl, rfl⟩

theorem crsfByte_keepsQueue (b : Byte) (now : Stamp) : KeepsQueue (crsfByte b now) := by
  intro s t v h
  have hg := gapCheck_rxq s.cfg.crsfByteTo now s
  have hc := gapCheck_cfg s.cfg.crsfByteTo now s
  unfold crsfByte at h
  generalize gapCheck s.cfg.crsfByteTo now s = g at h hg hc
  suffices key : t.rxq = g.rxq ∧ t.cfg = g.cfg from ⟨key.1.trans hg, key.2.trans hc⟩
  clear hg hc
  dsimp only at h
  split at h
  · split at h
    · cases h; exact ⟨rfl, rfl⟩
    · split at h
      · cases h
      · rename_i u hu
        obtain ⟨k1, k2⟩ := storeByte_keeps hu
        rw [← k1, ← k2]
        cases h; exact ⟨rfl, rfl⟩
  · split at h
    · split at h
      · cases h; exact ⟨rfl, rfl⟩
      · split at h
        · cases h
        · rename_i u hu
          obtain ⟨k1, k2⟩ := storeByte_keeps hu
          rw [← k1, ← k2]
          cases h; exact ⟨rfl, rfl⟩
    · split at h
      · cases h
      · rename_i u hu
        obtain ⟨k1, k2⟩ := storeByte_keeps hu
        rw [← k1, ← k2]
        split at h
        · exact crsfFrame_keepsQueue now (u.withIdx 0) t v h
        · cases h; exact ⟨rfl, rfl⟩

/-! ### One byte of a STEP -/

/-- A STEP with a queue gives the oldest byte to the byte operation and, unless that accepts, goes on from the state it
left. -/
theorem byteStreamStep_cons {op : Byte → State → Except Fault (State × Verdict)} {lim : Nat} {now : Stamp} {b : Byte}
    {q : List Byte} {s t : State} {v : Verdict} (hq : s.rxq = b :: q) (ht : t.rxq = q)
    (h : op b (s.withRxq q) = .ok (t, v)) :
    byteStreamStep op lim now s = if v = .accept then .ok (t.withOut (.stepOk true)) else byteStreamStep op lim now t := by
  unfold byteStreamStep
  rw [hq, ht]
  by_cases hv : v = .accept
  · subst hv
    rw [drain_accept h]
    rfl
  · rw [drain_goes_on h hv, if_neg hv]

/-- A STEP depends on its queue only through the loop. -/
theorem byteStreamStep_of_drain_eq {op op' : Byte → State → Except Fault (State × Verdict)} {lim : Nat} {now : Stamp}
    {s r : State} (h : drain op s.rxq s = drain op' r.rxq r) :
    byteStreamStep op lim now s = byteStreamStep op' lim now r := by
  simp [byteStreamStep, h]

end Sys2Proof.Machine
end

