-- ==== Sys2Proof/Tests/Slice0.lean ====
section
/-! SUPPORT. Tests: the checks of WellFormed, the decoder on words written out by hand, one-step vectors of
95_test_vectors.md and of the rules' examples, and for every obligation with hypotheses a state that meets them. -/

namespace Sys2Proof.Tests

-- one test after another: in parallel their kernel evaluations need more threads than the sandbox allows
set_option Elab.async false

open Sys2Proof.Machine

/-! ### Helpers -/

/-- The state after RESET with REFCFG. -/
def fresh (psel : Psel) : State := State.resetWith refcfg psel

/-- The same with bytes queued. -/
def fed (psel : Psel) (q : List Byte) : State := { fresh psel with rxq := q }

/-- The next state, where there is one. -/
def nextOf (o : Host.Outcome State Fault Refusal) : Option State :=
  match o with
  | .next s => some s
  | .fault _ => none
  | .refused _ => none

/-- One field of the next state. -/
def got {α : Type} (i : Instr) (s : State) (f : State → α) : Option α := (nextOf (exec i s)).map f

/-- The channels as numbers. -/
def chans (s : State) : List Nat := s.ch.toList.map BitVec.toNat

/-- The result and the labels. -/
def report (s : State) : Output × List Label := (s.out, s.log)

/-- The frame buffer holding a frame from byte 0 on. -/
def holding (psel : Psel) (f : List Byte) : State := { fresh psel with buf := frameInto (fresh psel).buf f }

/-! ### WellFormed: no operand has a range that its type does not give -/

theorem test_wf_time_unbounded : (Instr.step (2 ^ 64)).wellFormed = true ∧ (Instr.edge (2 ^ 64)).wellFormed = true := by
  decide

theorem test_wf_scale_any_naturals : (Instr.scale (2 ^ 32) 7 7).wellFormed = true := by decide

/-! ### Decoding, from words written out (the PSEL3 codes of R62, the model's codes of log entry 8) -/

theorem test_decode_events :
    decodeRecord [0x10, 0x02] = .ok (.reset 2) ∧
    decodeRecord [0x11, 0x0F] = .ok (.rxpush 0x0F) ∧
    decodeRecord [0x12, 0xE8, 0x07] = .ok (.step 1000) ∧
    decodeRecord [0x13, 0xFC, 0x98, 0x06] = .ok (.edge 101500) := by decide +kernel

theorem test_decode_step_arms :
    decodeRecord [0, 114, 0, 0, 0] = .ok (.stepPpm 114) ∧ decodeRecord [1] = .ok .stepIbus ∧
    decodeRecord [2, 1, 2, 0, 0] = .ok (.stepSbus 513) ∧ decodeRecord [3, 1, 0, 0, 0] = .ok (.stepCrsf 1) ∧
    decodeRecord [4, 1, 0, 0, 0] = .ok (.stepDsm2 1) ∧ decodeRecord [5, 1, 0, 0, 0] = .ok (.stepDsmx 1) ∧
    decodeRecord [6, 1, 0, 0, 0x80] = .ok (.stepFport 0x80000001) ∧ decodeRecord [7] = .ok .stepRsvd := by
  decide +kernel

theorem test_decode_edge_arms :
    decodeRecord [0x20, 0x78, 0, 0, 0] = .ok (.edgeNoise 120) ∧
    decodeRecord [0x21, 0xA0, 0x0F, 0, 0, 0x71, 0, 0, 0] = .ok (.edgeSyncAcc 4000 113) ∧
    decodeRecord [0x22, 0xA0, 0x0F, 0, 0] = .ok (.edgeSyncRej 4000) ∧
    decodeRecord [0x23, 0xDC, 0x05, 0, 0] = .ok (.edgeChan 1500) ∧
    decodeRecord [0x24, 0xC4, 0x09, 0, 0] = .ok (.edgeGap 2500) := by decide +kernel

theorem test_decode_framing :
    decodeRecord [0x30, 3, 1, 0, 0, 0] = .ok (.framerStep .crsf 1) ∧
    decodeRecord [0x31, 0x55, 1, 0, 0, 0] = .ok (.sbusByte 0x55 1) ∧
    decodeRecord [0x32, 1, 0, 0, 0] = .ok (.sbusFrame 1) ∧
    decodeRecord [0x33, 0xC8, 1, 0, 0, 0] = .ok (.crsfByte 0xC8 1) ∧
    decodeRecord [0x34, 1, 0, 0, 0] = .ok (.crsfFrame 1) ∧
    decodeRecord [0x35, 0xB2, 1, 0, 0, 0, 11] = .ok (.dsmByte 0xB2 1 .eleven) ∧
    decodeRecord [0x36, 1, 0, 0, 0, 10] = .ok (.dsmFrame 1 .ten) ∧
    decodeRecord [0x37, 0x00, 0x0C, 11] = .ok (.dsmPair 0x0C00 .eleven) ∧
    decodeRecord [0x38, 0x7E, 1, 0, 0, 0] = .ok (.fportByte 0x7E 1) ∧
    decodeRecord [0x39, 1, 0, 0, 0] = .ok (.fportFrame 1) := by decide +kernel

theorem test_decode_pure :
    decodeRecord (0x40 :: 0x00 :: 0x04 :: (List.replicate 20 0 ++ [3])) =
      .ok (.unpack11le (Vector.ofFn fun i => if i.val = 1 then 4 else 0) 3) ∧
    decodeRecord [0x41, 0x80, 0x08, 0xAC, 0x01, 0x93, 0x0E] = .ok (.scale 1024 172 1811) ∧
    decodeRecord [0x41, 0, 7, 7] = .ok (.scale 0 7 7) ∧
    decodeRecord [0x42, 0, 4] = .ok (.normS11 1024) ∧ decodeRecord [0x43, 0xFF, 7] = .ok (.normU11 2047) ∧
    decodeRecord [0x44, 0xFF, 3] = .ok (.normU10 1023) ∧ decodeRecord [0x45, 0x98, 8] = .ok (.normPpm 2200) ∧
    decodeRecord [0x46, 0x34, 8] = .ok (.normIbus 2100) := by decide +kernel

/-- A step runs an event at a time past 64 bits (R204): 2^64 is nine groups of seven zero bits and the group 2. -/
theorem test_time_past_64_bits :
    decodeRecord (0x12 :: (List.replicate 9 0x80 ++ [2])) = .ok (.step (2 ^ 64)) ∧
    (nextOf (step { fresh 2 with inbox := [0x12 :: (List.replicate 9 0x80 ++ [2])] })).map (·.time) = some (2 ^ 64) := by
  decide +kernel

/-- The FRAME rows' match words of opcode_table.json: byte 0 is the lowest byte of the word. -/
theorem test_decode_frame_words :
    decodeTableWord 200 0x0F = some (.sbusFrame 0) ∧ decodeTableWord 208 0x1618C8 = some (.crsfFrame 0) ∧
    decodeTableWord 128 0 = some (.dsmFrame 0 .ten) ∧
    decodeTableWord 232 (0x7E * 2 ^ 224 + 0x197E) = some (.fportFrame 0) := by decide +kernel

theorem test_decode_rejects :
    decodeRecord [] = .error .empty ∧ decodeRecord [0x08] = .error (.unknownCode 0x08) ∧
    decodeRecord [0x12, 0x81] = .error (.truncated "STEP") ∧
    decodeRecord [0x12, 0x80, 0] = .error (.badOperand "STEP") ∧ decodeRecord [0x10, 8] = .error (.badOperand "RESET") ∧
    decodeRecord [0x07, 0] = .error .trailing ∧ decodeRecord [0x37, 0, 0, 12] = .error (.badOperand "DSM.PAIR") ∧
    decodeRecord [0x30, 7, 0, 0, 0, 0] = .error (.badOperand "FRAMER.STEP") := by
  decide +kernel

theorem test_fetch_word_runs :
    nextOf (step (State.reset.withFetchWord 3 7)) = some { State.reset with out := .stepOk false } := by
  decide +kernel

/-! ### RESET, RXPUSH, STEP, STEP.RSVD -/

/-- R90: a partial frame, a latched frame and queued bytes are discarded; the collaborator is initialised under IBUS. -/
theorem test_reset_discards : got (.reset 1) { fed 2 [1, 2] with idx := 9, fc := true, latN := 6, missed := 3 }
    (fun s => ((s.idx, s.fc, s.latN), (s.missed, s.rxq, s.ibusInited))) = some ((0, false, 0), (0, [], true)) := by
  decide +kernel

theorem test_reset_center : got (.reset 2) { fresh 0 with ch := Vector.replicate 16 1000 }
    (fun s => (chans s, s.psel, s.ibusInited)) = some (List.replicate 16 1500, 2, false) := by decide +kernel

/-- R44: the byte goes to the tail. -/
theorem test_rxpush_tail : got (.rxpush 0x33) (fed 2 [0x11, 0x22]) (·.rxq) = some [0x11, 0x22, 0x33] := by
  decide +kernel

/-- V1: the source's SBUS example. -/
theorem test_step_sbus_example : got (.step 1000) (fed 2 ([0x0F, 0x00, 0x04] ++ List.replicate 22 0))
    (fun s => ((chans s, s.idx, s.lastByteMs), (s.lastFrameMs, s.rxq, s.out))) =
      some ((1520 :: List.replicate 15 1000, 0, 1), (1, [], .stepOk true)) := by decide +kernel

/-- V33: elapsed 100 raises nothing, elapsed 101 raises E_LOS. -/
theorem test_step_timeout_strict :
    got (.step 121999) { fresh 2 with lastFrameMs := 21 } report = some (.stepOk false, []) ∧
    got (.step 122000) { fresh 2 with lastFrameMs := 21 } report = some (.stepOk false, [.eLos]) := by decide +kernel

/-- R93 -/
theorem test_reserved_selector : got (.step 5000) (fed 7 [0x0F]) (fun s => (s.out, s.rxq, s.log)) =
    some (.stepOk false, [0x0F], []) := by decide +kernel

theorem test_rsvd_arm : got .stepRsvd (fed 7 [0x0F]) (fun s => (s.out, s.rxq)) = some (.stepOk false, [0x0F]) := by
  decide +kernel

/-! ### NORM and UNPACK11LE (Part B.1, B.2) -/

theorem test_norm_s11 : ([0, 171, 172, 173, 174, 500, 991, 992, 993, 1000, 1024, 1810, 1811, 1812, 2047].map fun r =>
    got (.normS11 (BitVec.ofNat 11 r)) (fresh 0) (·.out)) =
    [1000, 1000, 1000, 1001, 1001, 1200, 1500, 1500, 1501, 1505, 1520, 1999, 2000, 2000, 2000].map fun n =>
      some (.value n) := by decide +kernel

theorem test_norm_u11 : ([0, 1, 2, 3, 100, 511, 512, 1023, 1024, 1536, 1800, 2000, 2045, 2046, 2047].map fun r =>
    got (.normU11 (BitVec.ofNat 11 r)) (fresh 0) (·.out)) =
    [1000, 1000, 1001, 1001, 1049, 1250, 1250, 1500, 1500, 1750, 1879, 1977, 1999, 2000, 2000].map fun n =>
      some (.value n) := by decide +kernel

theorem test_norm_u10 : ([0, 1, 2, 100, 255, 256, 511, 512, 514, 768, 900, 1021, 1022, 1023].map fun r =>
    got (.normU10 (BitVec.ofNat 10 r)) (fresh 0) (·.out)) =
    [1000, 1001, 1002, 1098, 1249, 1250, 1500, 1500, 1502, 1751, 1880, 1998, 1999, 2000].map fun n =>
      some (.value n) := by decide +kernel

theorem test_norm_ppm : ([0, 800, 900, 999, 1000, 1001, 1500, 1999, 2000, 2001, 2100, 2200, 65535].map fun r =>
    got (.normPpm (BitVec.ofNat 16 r)) (fresh 0) (·.out)) =
    [1000, 1000, 1000, 1000, 1000, 1001, 1500, 1999, 2000, 2000, 2000, 2000, 2000].map fun n =>
      some (.value n) := by decide +kernel

theorem test_norm_ibus : ([0, 999, 1500, 2001, 2100, 65535].map fun r =>
    got (.normIbus (BitVec.ofNat 16 r)) (fresh 0) (·.out)) =
    [1000, 1000, 1500, 2000, 2000, 2000].map fun n => some (.value n) := by decide +kernel

/-- A3: the source's example, 852 of 1639. -/
theorem test_scale_example : got (.scale 1024 172 1811) (fresh 0) (·.out) = some (.value 1520) := by decide +kernel

/-- B.2, `ck = k + 1`. -/
theorem test_unpack_counting : ([0#4, 1, 2, 5, 7, 8, 10, 13, 15].map fun k => got (.unpack11le
    #v[0x01, 0x10, 0xC0, 0x00, 0x08, 0x50, 0x00, 0x03, 0x1C, 0x00, 0x01, 0x09, 0x50, 0xC0, 0x02, 0x18, 0xD0, 0x00, 0x07,
      0x3C, 0x00, 0x02] k) (fresh 0) (·.out)) =
    [1, 2, 3, 6, 8, 9, 11, 14, 16].map fun n => some (.value n) := by decide +kernel

/-- B.2, the mixed set M. -/
theorem test_unpack_mixed : ((List.finRange 16).map fun k => got (.unpack11le
    #v[0xAC, 0x00, 0xDF, 0xC4, 0x01, 0x08, 0x80, 0xFF, 0xD3, 0x87, 0xBB, 0xAD, 0x90, 0xF8, 0xF7, 0xC2, 0x87, 0x3E, 0x58,
      0xE2, 0x15, 0xC8] (BitVec.ofFin k)) (fresh 0) (·.out)) =
    [172, 992, 1811, 1024, 0, 2047, 500, 1500, 173, 1810, 991, 993, 1000, 1200, 1400, 1600].map fun n =>
      some (.value n) := by decide +kernel

/-! ### SBUS -/

/-- V3: noise before the header, the mixed set, ignored flag bits, footer 04. -/
theorem test_stepSbus_mixed : got (.stepSbus 5) (fed 2 [0x55, 0xAA, 0x0F, 0xAC, 0x00, 0xDF, 0xC4, 0x01, 0x08, 0x80, 0xFF,
    0xD3, 0x87, 0xBB, 0xAD, 0x90, 0xF8, 0xF7, 0xC2, 0x87, 0x3E, 0x58, 0xE2, 0x15, 0xC8, 0x03, 0x04])
    (fun s => (chans s, s.lastFrameMs, report s)) =
    some ([1000, 1500, 2000, 1520, 1000, 2000, 1200, 1810, 1001, 1999, 1500, 1501, 1505, 1627, 1749, 1871], 5,
      .stepOk true, [.eSync 0x55, .eSync 0xAA]) := by decide +kernel

/-- V2, first half: the footer corrupted. -/
theorem test_stepSbus_bad_footer : got (.stepSbus 1) (fed 2 ([0x0F, 0x00, 0x04] ++ (List.replicate 21 0 ++ [1])))
    (fun s => (chans s, s.lastFrameMs, report s)) =
    some (List.replicate 16 1500, 0, .stepOk false, [.eFooter 1]) := by decide +kernel

/-- R126: in search 0x55 is discarded and 0x0F stored. -/
theorem test_sbusByte_search :
    got (.sbusByte 0x55 1) (fresh 2) (fun s => (s.idx, report s)) = some (0, .verdict .none, [.eSync 0x55]) ∧
    got (.sbusByte 0x0F 1) (fresh 2) (fun s => (s.idx, s.buf[0], s.lastByteMs)) = some (1, 0x0F, 1) := by
  decide +kernel

/-- V14: a gap of 3 keeps the partial frame, a gap of 4 drops it and examines the byte again. -/
theorem test_sbusByte_gap :
    got (.sbusByte 0x87 13) { fresh 2 with idx := 10, lastByteMs := 10 } (fun s => (s.idx, s.log)) = some (11, []) ∧
    got (.sbusByte 0x87 14) { fresh 2 with idx := 10, lastByteMs := 10 } (fun s => (s.idx, s.log)) =
      some (0, [.eGap 10, .eSync 0x87]) := by decide +kernel

/-- V13: the footer is tested before the flags; 0xF3 has neither flag bit. -/
theorem test_sbusFrame_order :
    got (.sbusFrame 1) (holding 2 (0x0F :: (List.replicate 22 0 ++ [0x04, 0x01]))) report =
      some (.verdict .reject, [.eFooter 0x01]) ∧
    got (.sbusFrame 1) (holding 2 (0x0F :: (List.replicate 22 0 ++ [0x0C, 0x00]))) report =
      some (.verdict .reject, [.eFlags 0x0C]) ∧
    got (.sbusFrame 1) (holding 2 (0x0F :: (List.replicate 22 0 ++ [0xF3, 0x34]))) report =
      some (.verdict .reject, [.eFooter 0x34]) ∧
    got (.sbusFrame 1) (holding 2 (0x0F :: (List.replicate 22 0 ++ [0xF3, 0x00]))) report =
      some (.verdict .accept, []) := by decide +kernel

/-- V14: the partial frame of ten bytes, through the generic step. -/
theorem test_framerStep_partial :
    got (.framerStep .sbus 10) (fed 2 [0x0F, 0xAC, 0x00, 0xDF, 0xC4, 0x01, 0x08, 0x80, 0xFF, 0xD3])
      (fun s => (s.idx, s.lastByteMs, s.out)) = some (10, 10, .stepOk false) := by decide +kernel

/-! ### CRSF -/

/-- V4's frame, with another checksum byte. -/
def crsfBytes (b3 ck : Byte) : List Byte :=
  [0xC8, 0x18, 0x16, b3, 0x63, 0xC5, 0xC4, 0x01, 0x08, 0x3E, 0xF0, 0x81, 0x0F, 0x7C, 0xE0, 0x03, 0x1F, 0xF8, 0xC0, 0x07,
    0x3E, 0xF0, 0x81, 0x0F, 0x7C, ck]

/-- V4, V5, V6: well formed; a payload byte flipped; the checksum recomputed. -/
theorem test_stepCrsf_checksum :
    got (.stepCrsf 1) (fed 3 (crsfBytes 0xE0 0x46)) (fun s => (chans s, s.expLen, report s)) =
      some (1500 :: 1000 :: 2000 :: 1520 :: List.replicate 12 1500, 26, .stepOk true, []) ∧
    got (.stepCrsf 1) (fed 3 (crsfBytes 0xE1 0x46)) (fun s => (chans s, report s)) =
      some (List.replicate 16 1500, .stepOk false, [.eXor]) ∧
    got (.stepCrsf 1) (fed 3 (crsfBytes 0xE1 0x47)) (fun s => (s.ch[0], s.out)) = some (1501, .stepOk true) := by
  decide +kernel

/-- V16: a frame of another type is consumed and discarded, the RC frame behind it accepted in the same step. -/
theorem test_stepCrsf_other_type :
    got (.stepCrsf 1) (fed 3 ([0xC8, 0x0C, 0x14, 0x10, 0x20, 0x30, 0x40, 0x50, 0x60, 0x70, 0x80, 0x90, 0xA0, 0xA8] ++
      crsfBytes 0xE0 0x46)) (fun s => (s.ch[3], s.rxq, report s)) =
      some (1520, [], .stepOk true, [.eType 0x14 (some 12)]) := by decide +kernel

/-- V16: 1 and 63 are refused lengths, discarded and not examined again. -/
theorem test_crsfByte_length :
    got (.crsfByte 0x01 0) { fresh 3 with idx := 1 } (fun s => (s.idx, s.log)) = some (0, [.eLen 0x01]) ∧
    got (.crsfByte 0x3F 0) { fresh 3 with idx := 1 } (fun s => (s.idx, s.log)) = some (0, [.eLen 0x3F]) ∧
    got (.crsfByte 0x3E 0) { fresh 3 with idx := 1 } (fun s => (s.idx, s.expLen, s.log)) = some (2, 64, []) := by
  decide +kernel

/-- V16: the shortest legal frame is refused for its type, the type-14 frame with a wrong checksum for its checksum. -/
theorem test_crsfFrame_order :
    got (.crsfFrame 1) (holding 3 [0xC8, 0x02, 0x3A, 0x38]) report =
      some (.verdict .reject, [.eType 0x3A (some 2)]) ∧
    got (.crsfFrame 1) (holding 3 [0xC8, 0x0C, 0x14, 0x10, 0x20, 0x30, 0x40, 0x50, 0x60, 0x70, 0x80, 0x90, 0xA0, 0x57])
      report = some (.verdict .reject, [.eXor]) ∧
    got (.crsfFrame 1) (holding 3 (crsfBytes 0xE0 0x46)) (fun s => (s.ch[2], report s)) =
      some (2000, .verdict .accept, []) := by decide +kernel

/-! ### DSM2 / DSMX -/

/-- V18's bytes. -/
def dsmBytes : List Byte :=
  [0x01, 0x02, 0x02, 0x00, 0x04, 0x00, 0x0B, 0xFF, 0x0D, 0xFF, 0xFF, 0xFF, 0xFF, 0xFF, 0xFF, 0xFF]

/-- V18: under DSM2. -/
theorem test_stepDsm2 : got (.stepDsm2 1) (fed 4 dsmBytes) (fun s => (chans s, s.out)) =
    some (1500 :: 1000 :: 2000 :: List.replicate 13 1500, .stepOk true) := by decide +kernel

/-- V18: the same bytes under DSMX. -/
theorem test_stepDsmx : got (.stepDsmx 1) (fed 5 dsmBytes) (fun s => (chans s, s.out)) =
    some (1500 :: 1750 :: List.replicate 14 1500, .stepOk true) := by decide +kernel

/-- V20: after a gap of 10 the byte in hand is byte 0 of a new frame. -/
theorem test_dsmByte_gap :
    got (.dsmByte 0xFF 11 .eleven) { fresh 5 with idx := 10, lastByteMs := 1 } (fun s => (s.idx, s.buf[0], s.log)) =
      some (1, 0xFF, [.eGap 10]) ∧
    got (.dsmByte 0xFF 6 .eleven) { fresh 5 with idx := 10, lastByteMs := 1 } (fun s => (s.idx, s.log)) =
      some (11, []) := by decide +kernel

/-- V19: channel 15; an ignored top bit; channel 3 twice, the later wins; and a frame of empty slots. -/
theorem test_dsmFrame :
    got (.dsmFrame 1 .eleven) (holding 5 [0x00, 0x00, 0x7F, 0xFF, 0x91, 0x2C, 0x18, 0x64, 0x1F, 0xFF, 0x00, 0x00, 0xFF,
      0xFF, 0xFF, 0xFF]) (fun s => (chans s, s.out)) =
      some ([1000, 1500, 1147, 2000] ++ (List.replicate 11 1500 ++ [2000]), .verdict .accept) ∧
    got (.dsmFrame 7 .eleven) (holding 5 (List.replicate 16 0xFF)) (fun s => (chans s, s.lastFrameMs, s.out)) =
      some (List.replicate 16 1500, 7, .verdict .accept) := by decide +kernel

/-- R148's examples, and the empty slot. -/
theorem test_dsmPair :
    got (.dsmPair 0x0C00 .eleven) { fresh 5 with ch := Vector.replicate 16 1000 } (fun s => (s.ch[0], s.ch[1])) =
      some (1000, 1500) ∧
    got (.dsmPair 0x0600 .ten) { fresh 4 with ch := Vector.replicate 16 1000 } (fun s => (s.ch[0], s.ch[1])) =
      some (1000, 1500) ∧
    got (.dsmPair 0xFFFF .eleven) (fresh 5) chans = some (List.replicate 16 1500) := by decide +kernel

/-! ### FPORT -/

/-- V8's frame, with the type byte, byte 26, the checksum byte and the terminator given. -/
def fportBytes (ty b26 ck term : Byte) : List Byte :=
  [0x7E, 0x19, ty, 0xAC, 0x00, 0xDF, 0xC4, 0x01, 0x08] ++ (List.replicate 17 0 ++ [b26, ck, term])

/-- V8 and V9. -/
theorem test_stepFport :
    got (.stepFport 1) (fed 6 (fportBytes 0 0x64 0xDA 0x7E)) (fun s => (chans s, s.expLen, report s)) =
      some (1000 :: 1500 :: 2000 :: 1520 :: List.replicate 12 1000, 29, .stepOk true, []) ∧
    got (.stepFport 1) (fed 6 (fportBytes 0 0x64 0x5A 0x7E)) (fun s => (chans s, report s)) =
      some (List.replicate 16 1500, .stepOk false, [.eXor]) := by decide +kernel

/-- V21: `7E 7E 19` alone. -/
theorem test_stepFport_restart : got (.stepFport 1) (fed 6 [0x7E, 0x7E, 0x19]) (fun s => (s.idx, report s)) =
    some (0, .stepOk false, [.eLen 0x7E, .eSync 0x19]) := by decide +kernel

theorem test_fportByte_length :
    got (.fportByte 0x19 0) { fresh 6 with idx := 1 } (fun s => (s.idx, s.expLen)) = some (2, 29) ∧
    got (.fportByte 0x08 0) { fresh 6 with idx := 1 } (fun s => (s.idx, s.log)) = some (0, [.eLen 0x08]) := by
  decide +kernel

/-- V21: terminator before type before checksum. -/
theorem test_fportFrame_order :
    got (.fportFrame 1) (holding 6 (fportBytes 1 0x64 0xDA 0x7D)) report = some (.verdict .reject, [.eTerm 0x7D]) ∧
    got (.fportFrame 1) (holding 6 (fportBytes 1 0x64 0x00 0x7E)) report =
      some (.verdict .reject, [.eType 1 none]) ∧
    got (.fportFrame 1) (holding 6 (fportBytes 0 0x65 0xDA 0x7E)) report = some (.verdict .reject, [.eXor]) ∧
    got (.fportFrame 1) (holding 6 (fportBytes 0 0x65 0xDB 0x7E)) report = some (.verdict .accept, []) := by
  decide +kernel

/-! ### PPM -/

/-- V24: the class of a width at every threshold. -/
theorem test_width_classes :
    ([0, 1, 299, 300, 799, 800, 1500, 2200, 2201, 3000, 3001, 4000, 29999, 30000, 50000, 50001, 100000].map fun w =>
      refcfg.classify (BitVec.ofNat 32 w)) =
    [.noise, .noise, .noise, .gap, .gap, .chan, .chan, .chan, .gap, .gap, .sync, .sync, .sync, .gap, .gap, .noise,
      .noise] := by decide +kernel

/-- R166's example, and an edge under another selector. -/
theorem test_edge :
    got (.edge 101500) { fresh 0 with lastEdgeUs := 100000 } (fun s => (s.lastEdgeUs, s.ppmIdx, s.pw[0])) =
      some (101500, 1, 1500) ∧
    got (.edge 101500) { fresh 2 with lastEdgeUs := 100000 } (fun s => (s.lastEdgeUs, s.ppmIdx, s.log)) =
      some (100000, 0, []) := by decide +kernel

/-- R233: one wrap of the microsecond counter between two edges is harmless. -/
theorem test_edge_wraps : got (.edge (2 ^ 32 + 500)) { fresh 0 with lastEdgeUs := BitVec.ofNat 32 (2 ^ 32 - 1000) }
    (fun s => (s.lastEdgeUs, s.pw[0])) = some (500, 1500) := by decide +kernel

/-- R167 -/
theorem test_edgeNoise : got (.edgeNoise 120) { fresh 0 with ppmIdx := 3 } (fun s => (s.ppmIdx, s.missed, s.log)) =
    some (3, 0, [.eNoise 120]) := by decide +kernel

/-- R168's example: the entries above the count keep their old values. -/
theorem test_edgeSyncAcc : got (.edgeSyncAcc 4000 113)
    { fresh 0 with ppmIdx := 6, pw := Vector.replicate 16 1500, lat := Vector.replicate 16 7, missed := 2 }
    (fun s => (s.latN, s.lat.toList.map BitVec.toNat, s.fc, s.missed, s.ppmLastFrameMs, s.ppmIdx)) =
    some (6, List.replicate 6 1500 ++ List.replicate 10 7, true, 0, 113, 0) := by decide +kernel

/-- R169's example, and the saturation at 255. -/
theorem test_edgeSyncRej :
    got (.edgeSyncRej 4000) { fresh 0 with ppmIdx := 3 } (fun s => (s.missed, s.ppmIdx, s.fc, s.log)) =
      some (1, 0, false, [.eCount 3]) ∧
    got (.edgeSyncRej 4000) { fresh 0 with missed := 255 } (·.missed) = some 255 := by decide +kernel

/-- R170's example, and the seventeenth pulse. -/
theorem test_edgeChan :
    got (.edgeChan 1500) { fresh 0 with ppmIdx := 2 } (fun s => (s.pw[2], s.ppmIdx)) = some (1500, 3) ∧
    got (.edgeChan 1500) { fresh 0 with ppmIdx := 16 } (fun s => (s.pw.toList.map BitVec.toNat, s.ppmIdx)) =
      some (List.replicate 16 0, 16) := by decide +kernel

/-- R171 -/
theorem test_edgeGap : got (.edgeGap 2500) { fresh 0 with ppmIdx := 3 } (fun s => (s.ppmIdx, s.log)) =
    some (3, [.eNoise 2500]) := by decide +kernel

/-- The state of V23 after its last edge. -/
def latched : State :=
  { fresh 0 with
    lat := #v[1000, 1250, 1500, 1750, 2000, 900, 2100, 1100, 0, 0, 0, 0, 0, 0, 0, 0]
    latN := 8, fc := true, ppmLastFrameMs := 79 }

/-- V23: two widths saturate, entries from the count up are not written. -/
theorem test_stepPpm : got (.stepPpm 80) latched (fun s => (chans s, s.fc, s.out)) =
    some ([1000, 1250, 1500, 1750, 2000, 1000, 2000, 1100] ++ List.replicate 8 1500, false, .stepOk true) := by
  decide +kernel

/-- R172: the boundaries of the second and third test; the info of E_COUNT is `ppm_idx` (R191). -/
theorem test_stepPpm_boundaries :
    got (.stepPpm 179) { latched with missed := 10 } (·.out) = some (.stepOk true) ∧
    got (.stepPpm 80) { latched with missed := 11, ppmIdx := 2 } (fun s => (s.fc, report s)) =
      some (true, .stepOk false, [.eCount 2]) ∧
    got (.stepPpm 180) latched (fun s => (s.fc, report s)) = some (true, .stepOk false, [.eLos]) := by decide +kernel

/-! ### IBUS -/

/-- R186's example: fourteen channels are copied, saturated. -/
theorem test_stepIbus : got .stepIbus
    { fresh 1 with ibusAns := [⟨true, #v[1500, 1000, 2000, 999, 2001, 0, 65535, 1, 1, 1, 1, 1, 1, 1700, 1800, 1900]⟩] }
    (fun s => (chans s, s.out)) =
    some ([1500, 1000, 2000, 1000, 2000, 1000, 2000, 1000, 1000, 1000, 1000, 1000, 1000, 1700, 1500, 1500],
      .stepOk true) := by decide +kernel

theorem test_stepIbus_nothing_new : got .stepIbus { fresh 1 with ibusAns := [⟨false, Vector.replicate 16 1800⟩] }
    (fun s => (chans s, s.out, s.ibusAns)) = some (List.replicate 16 1500, .stepOk false, []) := by decide +kernel

/-! ### Witnesses: for every obligation with hypotheses, states and operands that meet them, one for each clause, at
the boundaries of its range -/

theorem witness_decode : (Instr.scale 5 0 1).wellFormed = true ∧ (Instr.step (2 ^ 64)).wellFormed = true ∧
    decodeRecord [0x11, 0xFF] = .ok (.rxpush 0xFF) := by decide +kernel

theorem witness_step_runs : (fresh 0).inbox = [] ∧ decodeRecord [0x11, 0x05] = .ok (.rxpush 0x05) ∧
    decodeRecord [0x08] = .error (.unknownCode 0x08) := by decide +kernel

theorem witness_selector_codes : refcfg.Legal ∧ (7#3) ∉ [refcfg.pselPpm, refcfg.pselIbus, refcfg.pselSbus,
    refcfg.pselCrsf, refcfg.pselDsm2, refcfg.pselDsmx, refcfg.pselFport] := ⟨refcfg_legal, by decide⟩

theorem witness_selected_arm : ([0#3, 1, 2, 3, 4, 5, 6, 7].map fun k => (fresh k).cfg.proto (fresh k).psel) =
    [.ppm, .ibus, .sbus, .crsf, .dsm2, .dsmx, .fport, .rsvd] := by decide +kernel

/-- The edge at 100000 + w after an edge at 100000: the widths where the classes meet. -/
theorem witness_edge_arms : (([299, 50001, 3001, 29999, 800, 2200, 300, 799, 2201, 3000, 30000, 50000].map fun w : Nat =>
    (BitVec.ofNat 32 (100000 + w) - { fresh 0 with lastEdgeUs := 100000 }.lastEdgeUs).toNat) =
      [299, 50001, 3001, 29999, 800, 2200, 300, 799, 2201, 3000, 30000, 50000]) ∧
    (4 ≤ (4#5).toNat ∧ (16#5).toNat ≤ 16 ∧ ¬ 4 ≤ (3#5).toNat ∧ ¬ (17#5).toNat ≤ 16) ∧
    (fresh 0).cfg.proto (fresh 0).psel = .ppm ∧ (fresh 2).cfg.proto (fresh 2).psel ≠ .ppm := by decide +kernel

theorem witness_queue_not_popped : (∃ t, exec (.step 1000) (fed 0 [1]) = .next t) ∧
    (∃ t, exec (.stepPpm 1) (fed 0 [1]) = .next t) ∧
    (∃ t, exec .stepIbus { fed 1 [1] with ibusAns := [⟨true, Vector.replicate 16 1800⟩] } = .next t) ∧
    (∃ t, exec .stepRsvd (fed 7 [1]) = .next t) ∧ (fed 7 [1]).cfg.proto (fed 7 [1]).psel = .rsvd :=
  ⟨⟨_, rfl⟩, ⟨_, rfl⟩, ⟨_, rfl⟩, ⟨_, rfl⟩, rfl⟩

theorem witness_scale : 172 < 1811 ∧ 7 ≤ 7 ∧ 0 < 1 ∧ (172, 1811) ∈ [(172, 1811), (0, 2047), (0, 1023)] ∧
    172 ≤ 1811 := by decide

theorem witness_gap_check :
    ((1#7) ≠ 0 ∧ 3 < ((14#32) - { fresh 2 with idx := 1, lastByteMs := 10 }.lastByteMs).toNat) ∧
    (fresh 2).idx = 0 ∧ ((13#32) - { fresh 2 with idx := 1, lastByteMs := 10 }.lastByteMs).toNat ≤ 3 := by
  decide +kernel

theorem witness_empty_queue : (fresh 2).rxq = [] := rfl

theorem witness_framer_policy : (fresh 3).cfg.Legal ∧ (fresh 3).expLen ≠ 1 := ⟨refcfg_legal, by decide +kernel⟩

/-- The longest CRSF frame, one byte short. -/
theorem witness_streams_complete : (fresh 2).cfg.Legal ∧ { fresh 2 with idx := 24 }.idx.toNat < 25 ∧
    CrsfCoherent { holding 3 [0xC8, 0x3E] with idx := 63, expLen := 64 } ∧ CrsfCoherent (fresh 3) ∧
    { fresh 4 with idx := 15 }.idx.toNat < 16 ∧ { fresh 6 with idx := 28 }.idx.toNat < 29 :=
  ⟨refcfg_legal, by decide +kernel, by decide +kernel, by decide +kernel, by decide +kernel, by decide +kernel⟩

/-- A stale partial frame and a gap one millisecond over the longest inter-byte timeout of each protocol. -/
theorem witness_stale_frame : ∃ (now : Stamp) (s : State) (p : Vector Byte 22), s.cfg.Legal ∧ s.idx ≠ 0 ∧
    (s.cfg.sbusByteTo < (now - s.lastByteMs).toNat ∧ s.cfg.crsfByteTo < (now - s.lastByteMs).toNat ∧
      s.cfg.dsmByteTo < (now - s.lastByteMs).toNat ∧ s.cfg.fportByteTo < (now - s.lastByteMs).toNat) ∧
    (0x24#8 ∈ s.cfg.sbusFooters ∧ 0xF3#8 &&& (s.cfg.sbusLostMask ||| s.cfg.sbusFsMask) = 0) ∧
    s.rxq = 0x0F :: (p.toList ++ 0xF3 :: 0x24 :: [7]) :=
  ⟨16, { fed 2 (0x0F :: (List.replicate 22 0 ++ [0xF3, 0x24, 7])) with idx := 10, lastByteMs := 10 },
    Vector.replicate 22 0, refcfg_legal, by decide +kernel⟩

theorem witness_stale_other_queues : ∃ (s : State) (p : Vector Byte 22) (f : Vector Byte 16),
    { s with rxq := crsfBytes 0xE0 0x46 ++ [7] }.rxq = s.cfg.crsfSync :: 24 :: s.cfg.crsfTypeRc ::
      (p.toList ++ (24 :: s.cfg.crsfTypeRc :: p.toList).foldl (· ^^^ ·) 0 :: [7]) ∧
    { s with rxq := dsmBytes ++ [7] }.rxq = f.toList ++ [7] ∧
    { s with rxq := 0x7E :: 0x19 :: 0 :: (p.toList ++ [1, 2, (p.toList ++ [1#8, 2]).foldl (· ^^^ ·) 0, 0x7E, 7]) }.rxq =
      s.cfg.fportHdr :: s.cfg.fportLenByte :: s.cfg.fportTypeRc ::
      (p.toList ++ 1 :: 2 :: (p.toList ++ [1, 2]).foldl (· ^^^ ·) 0 :: s.cfg.fportHdr :: [7]) :=
  ⟨fresh 3, Vector.ofFn fun i => (crsfBytes 0xE0 0x46).getD (i.val + 3) 0, Vector.ofFn fun i => dsmBytes.getD i.val 0,
    by decide +kernel⟩

theorem witness_loss_of_signal : (∃ t, exec (.stepSbus 101) (fresh 2) = .next t) ∧
    (∃ t, exec (.stepCrsf 100) (fresh 3) = .next t) ∧ (∃ t, exec (.stepDsm2 101) (fresh 4) = .next t) ∧
    (∃ t, exec (.stepDsmx 101) (fresh 5) = .next t) ∧ ∃ t, exec (.stepFport 101) (fresh 6) = .next t :=
  ⟨⟨_, rfl⟩, ⟨_, rfl⟩, ⟨_, rfl⟩, ⟨_, rfl⟩, ⟨_, rfl⟩⟩

/-- Each BYTE operation answers; an accepting byte and others. -/
theorem witness_bytes_in_order :
    (∃ t, exec (.sbusByte 0 1) { fed 2 [7] with idx := 24, lastByteMs := 1 } = .next t ∧ t.out = .verdict .accept) ∧
    (∃ t, exec (.sbusByte 0x55 1) (fed 2 [7]) = .next t ∧ t.out ≠ .verdict .accept) ∧
    (∃ t, exec (.crsfByte 0xC8 1) (fed 3 []) = .next t ∧ t.out ≠ .verdict .accept) ∧
    (∃ t, exec (.dsmByte 0 1 .ten) { fed 4 [] with idx := 15, lastByteMs := 1 } = .next t ∧ t.out = .verdict .accept) ∧
    (∃ t, exec (.dsmByte 0 1 .eleven) (fed 5 []) = .next t ∧ t.out ≠ .verdict .accept) ∧
    (∃ t, exec (.fportByte 0x7E 1) (fed 6 [7]) = .next t ∧ t.out ≠ .verdict .accept) ∧
    (fed 2 [0x55, 7]).rxq = 0x55 :: [7] :=
  ⟨⟨_, rfl, by decide +kernel⟩, ⟨_, rfl, by decide +kernel⟩, ⟨_, rfl, by decide +kernel⟩, ⟨_, rfl, by decide +kernel⟩,
    ⟨_, rfl, by decide +kernel⟩, ⟨_, rfl, by decide +kernel⟩, rfl⟩

theorem witness_sbus_frame :
    (holding 2 (List.replicate 24 0 ++ [1])).buf[24] ∉ refcfg.sbusFooters ∧
    ((holding 2 (List.replicate 23 0 ++ [8, 0x24])).buf[24] ∈ refcfg.sbusFooters ∧
      (holding 2 (List.replicate 23 0 ++ [8, 0x24])).buf[23] &&& (refcfg.sbusLostMask ||| refcfg.sbusFsMask) ≠ 0) ∧
    ((fresh 2).buf[24] ∈ refcfg.sbusFooters ∧
      ¬ (fresh 2).buf[23] &&& (refcfg.sbusLostMask ||| refcfg.sbusFsMask) ≠ 0) := by decide +kernel

/-- The indices at which a byte operation changes what it does; `now` is the stamp of the previous byte. -/
theorem witness_byte_indices :
    ((fresh 2).idx = 0 ∧ (0x55#8) ≠ 0x0F) ∧
    ({ fresh 2 with idx := 23 }.idx.toNat < 64 ∧ { fresh 2 with idx := 23 }.idx ≠ 24) ∧
    ({ fresh 2 with idx := 63 }.idx.toNat < 64 ∧ { fresh 2 with idx := 63 }.idx ≠ 24) ∧
    { fresh 2 with idx := 24 }.idx = 24 ∧
    ({ fresh 4 with idx := 14 }.idx.toNat < 64 ∧ { fresh 4 with idx := 14 }.idx ≠ 15) ∧
    { fresh 4 with idx := 15 }.idx = 15 ∧
    ((fresh 2).idx = 0 ∨ ((0#32) - (fresh 2).lastByteMs).toNat ≤ (fresh 2).cfg.sbusByteTo) := by decide +kernel

/-- An accepted frame; one with a wrong footer and one with a flag bit, a byte behind the one and none behind the other. -/
theorem witness_sbus_in_one_step : ∃ (s s' s'' : State) (p : Vector Byte 22), (s.idx = 0 ∧ s'.idx = 0 ∧ s''.idx = 0) ∧
    (s.rxq = 0x0F :: (p.toList ++ 0xF3 :: 0x24 :: []) ∧
      (0x24#8 ∈ s.cfg.sbusFooters ∧ 0xF3#8 &&& (s.cfg.sbusLostMask ||| s.cfg.sbusFsMask) = 0)) ∧
    (s'.rxq = 0x0F :: (p.toList ++ 0xF3 :: 0x25 :: [0x0F]) ∧
      ¬ (0x25#8 ∈ s'.cfg.sbusFooters ∧ 0xF3#8 &&& (s'.cfg.sbusLostMask ||| s'.cfg.sbusFsMask) = 0)) ∧
    (s''.rxq = 0x0F :: (p.toList ++ 0x04 :: 0x24 :: []) ∧
      ¬ (0x24#8 ∈ s''.cfg.sbusFooters ∧ 0x04#8 &&& (s''.cfg.sbusLostMask ||| s''.cfg.sbusFsMask) = 0)) :=
  ⟨fed 2 (0x0F :: (List.replicate 22 0 ++ [0xF3, 0x24])), fed 2 (0x0F :: (List.replicate 22 0 ++ [0xF3, 0x25, 0x0F])),
    fed 2 (0x0F :: (List.replicate 22 0 ++ [0x04, 0x24])), Vector.replicate 22 0, by decide +kernel⟩

/-- Lengths 62 (checksum at byte 63), 2 (another type) and 24 (the RC frame). -/
theorem witness_crsf_frame :
    ((holding 3 [0xC8, 62]).buf[1].toNat + 1 < 64 ∧
      (((holding 3 [0xC8, 62]).buf.toList.drop 1).take 62).foldl (· ^^^ ·) 0 ≠ (holding 3 [0xC8, 62]).buf[63]) ∧
    ((((holding 3 [0xC8, 2, 0x3A, 0x38]).buf.toList.drop 1).take 2).foldl (· ^^^ ·) 0 =
      (holding 3 [0xC8, 2, 0x3A, 0x38]).buf[3] ∧ (holding 3 [0xC8, 2, 0x3A, 0x38]).buf[2] ≠ refcfg.crsfTypeRc) ∧
    (((holding 3 (crsfBytes 0xE0 0x46)).buf.toList.drop 1).take 24).foldl (· ^^^ ·) 0 =
      (holding 3 (crsfBytes 0xE0 0x46)).buf[25] ∧
    (holding 3 (crsfBytes 0xE0 0x46)).buf[2] = refcfg.crsfTypeRc ∧
    (holding 3 (crsfBytes 0xE0 0x46)).buf[1].toNat = 24 := by decide +kernel

/-- Length bytes 1 and 63 are refused, 2 and 62 taken; index 62 with `exp_len` 63 completes, with 64 does not. -/
theorem witness_crsf_byte :
    ((1#8).toNat < refcfg.crsfLenMin ∧ refcfg.crsfLenMax < (63#8).toNat ∧ refcfg.crsfLenMin ≤ (2#8).toNat ∧
      (62#8).toNat ≤ refcfg.crsfLenMax) ∧ { fresh 3 with idx := 1 }.idx = 1 ∧
    ((fresh 3).idx = 0 ∧ (0x55#8) ≠ refcfg.crsfSync ∧ (0xC8#8) = refcfg.crsfSync) ∧
    ({ fresh 3 with idx := 62, expLen := 63 }.idx.toNat < 64 ∧ 2 ≤ { fresh 3 with idx := 62, expLen := 63 }.idx.toNat ∧
      { fresh 3 with idx := 62, expLen := 63 }.idx + 1 = { fresh 3 with idx := 62, expLen := 63 }.expLen ∧
      { fresh 3 with idx := 62, expLen := 64 }.idx + 1 ≠ { fresh 3 with idx := 62, expLen := 64 }.expLen) := by
  decide +kernel

theorem witness_crsf_in_one_step : ∃ (s s' : State) (p q : Vector Byte 22), s.cfg.Legal ∧ s'.cfg.Legal ∧
    (s.idx = 0 ∧ s'.idx = 0) ∧
    s.rxq = s.cfg.crsfSync :: 24 :: s.cfg.crsfTypeRc ::
      (p.toList ++ [(24 :: s.cfg.crsfTypeRc :: p.toList).foldl (· ^^^ ·) 0]) ++ [] ∧
    (∃ (i : Fin 22) (b : Byte), b ≠ p[i] ∧ q = p.set i.val b) ∧
    s'.rxq = s'.cfg.crsfSync :: 24 :: s'.cfg.crsfTypeRc ::
      (p.toList ++ [(24 :: s'.cfg.crsfTypeRc :: q.toList).foldl (· ^^^ ·) 0]) :=
  ⟨fed 3 (crsfBytes 0xE0 0x46), fed 3 (crsfBytes 0xE0 0x47),
    Vector.ofFn fun i => (crsfBytes 0xE0 0x46).getD (i.val + 3) 0,
    Vector.ofFn fun i => (crsfBytes 0xE1 0x47).getD (i.val + 3) 0, refcfg_legal, refcfg_legal, by decide +kernel,
    by decide +kernel, ⟨0, 0xE1, by decide +kernel, by decide +kernel⟩, by decide +kernel⟩

/-- The type-14 frame of V16, and the shortest and the longest frame of another type. -/
theorem witness_crsf_other : refcfg.Legal ∧ (fresh 3).idx = 0 ∧
    (fed 3 [0xC8, 0x0C, 0x14, 0x10, 0x20, 0x30, 0x40, 0x50, 0x60, 0x70, 0x80, 0x90, 0xA0, 0xA8, 0xC8]).rxq =
      refcfg.crsfSync :: 12 :: 0x14 :: ([0x10, 0x20, 0x30, 0x40, 0x50, 0x60, 0x70, 0x80, 0x90, 0xA0] ++
        [(12#8 :: 0x14 :: [0x10, 0x20, 0x30, 0x40, 0x50, 0x60, 0x70, 0x80, 0x90, 0xA0]).foldl (· ^^^ ·) 0]) ++ [0xC8] ∧
    (0x14#8) ≠ refcfg.crsfTypeRc ∧ refcfg.crsfLenMin ≤ ([] : List Byte).length + 2 ∧
    (List.replicate 60 (0 : Byte)).length + 2 ≤ refcfg.crsfLenMax :=
  ⟨refcfg_legal, by decide +kernel⟩

/-- Every slot empty; and slot 7 naming channel 15 with nothing behind it. -/
theorem witness_dsm : (0xFFFF#16) = 0xFFFF ∧ (0x7FFF#16) ≠ 0xFFFF ∧
    (∀ i : Fin 7, BitVec.ofNat 16 ((holding 5 (List.replicate 16 0xFF)).buf[2 * i.val + 2].toNat * 256 +
      (holding 5 (List.replicate 16 0xFF)).buf[2 * i.val + 3].toNat) = 0xFFFF#16) ∧
    BitVec.ofNat 16 ((holding 5 (List.replicate 14 0xFF ++ [0x7F, 0xFF])).buf[14].toNat * 256 +
      (holding 5 (List.replicate 14 0xFF ++ [0x7F, 0xFF])).buf[15].toNat) = 0x7FFF#16 ∧
    (0x7FFF#16).toNat / 2048 % 16 = 15 := by decide +kernel

theorem witness_dsm_any : ∃ (s : State) (f : Vector Byte 16), s.idx = 0 ∧ s.rxq = f.toList ++ [1, 2] :=
  ⟨fed 5 (dsmBytes ++ [1, 2]), Vector.ofFn fun i => dsmBytes.getD i.val 0, by decide +kernel⟩

theorem witness_fport_frame :
    (holding 6 (fportBytes 0 0x64 0xDA 0x7D)).buf[28] ≠ refcfg.fportHdr ∧
    ((holding 6 (fportBytes 1 0x64 0xDA 0x7E)).buf[28] = refcfg.fportHdr ∧
      (holding 6 (fportBytes 1 0x64 0xDA 0x7E)).buf[2] ≠ refcfg.fportTypeRc) ∧
    ((holding 6 (fportBytes 0 0x64 0xDA 0x7E)).buf[2] = refcfg.fportTypeRc ∧
      (((holding 6 (fportBytes 0 0x64 0xDA 0x7E)).buf.toList.drop 3).take 24).foldl (· ^^^ ·) 0 =
        (holding 6 (fportBytes 0 0x64 0xDA 0x7E)).buf[27]) ∧
    (((holding 6 (fportBytes 0 0x64 0x5A 0x7E)).buf.toList.drop 3).take 24).foldl (· ^^^ ·) 0 ≠
      (holding 6 (fportBytes 0 0x64 0x5A 0x7E)).buf[27] := by decide +kernel

theorem witness_fport_byte :
    ((0x19#8) ≠ refcfg.fportHdr ∧ (0x7E#8) = refcfg.fportHdr) ∧
    ((0x7E#8) ≠ refcfg.fportLenByte ∧ (0x19#8) = refcfg.fportLenByte) ∧ { fresh 6 with idx := 1 }.idx = 1 ∧
    (2 ≤ { fresh 6 with idx := 2 }.idx.toNat ∧ { fresh 6 with idx := 27 }.idx ≠ 28 ∧
      { fresh 6 with idx := 63 }.idx.toNat < 64) ∧ { fresh 6 with idx := 28 }.idx = 28 := by decide +kernel

/-- An accepted frame, and one rejected for its checksum with a byte behind it; a wrong terminator and a wrong type. -/
theorem witness_fport_in_one_step : ∃ (s s' : State) (p : Vector Byte 22), (s.idx = 0 ∧ s'.idx = 0) ∧
    s.rxq = (s.cfg.fportHdr :: s.cfg.fportLenByte :: 0x00 ::
      (p.toList ++ [0, 0x64, 0xDA, 0x7E])) ++ [] ∧
    s'.rxq = (s'.cfg.fportHdr :: s'.cfg.fportLenByte :: 0x00 ::
      (p.toList ++ [0, 0x64, 0x5A, 0x7E])) ++ [0x7E] ∧
    (0x7E#8) = s.cfg.fportHdr ∧ (0x00#8) = s.cfg.fportTypeRc ∧ (0xDA#8) = (p.toList ++ [0, 0x64]).foldl (· ^^^ ·) 0 ∧
    (0x5A#8) ≠ (p.toList ++ [0, 0x64]).foldl (· ^^^ ·) 0 ∧ (0x7D#8) ≠ s.cfg.fportHdr ∧ (0x01#8) ≠ s.cfg.fportTypeRc :=
  ⟨fed 6 (fportBytes 0 0x64 0xDA 0x7E), fed 6 (fportBytes 0 0x64 0x5A 0x7E ++ [0x7E]),
    Vector.ofFn fun i => (fportBytes 0 0x64 0xDA 0x7E).getD (i.val + 3) 0, by decide +kernel⟩

theorem witness_capture_counts : { fresh 0 with ppmIdx := 16 }.ppmIdx.toNat ≤ 16 ∧
    { fresh 0 with ppmIdx := 15 }.ppmIdx.toNat < 16 ∧ 16 ≤ { fresh 0 with ppmIdx := 16 }.ppmIdx.toNat := by
  decide +kernel

theorem witness_ppm_poll : (fresh 0).fc = false ∧ latched.fc = true ∧
    refcfg.ppmMaxMissed < { latched with missed := 11 }.missed.toNat ∧
    ¬ refcfg.ppmMaxMissed < { latched with missed := 10 }.missed.toNat ∧
    refcfg.ppmTimeoutMs < ((180#32) - latched.ppmLastFrameMs).toNat ∧
    ¬ refcfg.ppmTimeoutMs < ((179#32) - latched.ppmLastFrameMs).toNat ∧
    { latched with latN := 16 }.latN.toNat ≤ 16 := by decide +kernel

/-- A successful poll, a poll with `fc` clear, and a run from there that an edge ends with a frame completed. -/
theorem witness_ppm_once : (∃ t, exec (.stepPpm 80) latched = .next t ∧ t.out = .stepOk true) ∧
    ((fresh 0).fc = false ∧ (fresh 0).cfg.proto (fresh 0).psel = .ppm) ∧
    ∃ t, execAll [.stepPpm 80, .edge 4000] { fresh 0 with ppmIdx := 4 } = some t ∧ t.fc = true :=
  ⟨⟨_, rfl, by decide +kernel⟩, by decide +kernel, _, rfl, by decide +kernel⟩

theorem witness_edge_leaves : ∃ t, exec (.edge 101500) latched = .next t := ⟨_, rfl⟩

theorem witness_six_pulses : ∃ s : State, s.cfg.Legal ∧ s.cfg.proto s.psel = .ppm ∧ s.ppmIdx = 0 ∧
    s.lastEdgeUs = BitVec.ofNat 32 100000 ∧ 100000 + 13000 ≤ 213999 ∧
    213999 / 1000 ≤ (100000 + 13000) / 1000 + s.cfg.ppmTimeoutMs :=
  ⟨{ fresh 0 with lastEdgeUs := 100000 }, refcfg_legal, by decide +kernel⟩

theorem witness_ibus : ∃ (a n : IbusAnswer) (s s1 : State),
    (∃ rest, s.ibusAns = a :: rest ∧ s1 = { s with ibusAns := rest }) ∧ a.new = true ∧ s.cfg.ibusNch ≤ 16 ∧
    (∃ rest, s1.ibusAns = n :: rest) ∧ n.new = false :=
  ⟨⟨true, Vector.replicate 16 1800⟩, ⟨false, Vector.replicate 16 1800⟩,
    { fresh 1 with ibusAns := [⟨true, Vector.replicate 16 1800⟩, ⟨false, Vector.replicate 16 1800⟩] },
    { fresh 1 with ibusAns := [⟨false, Vector.replicate 16 1800⟩] }, ⟨_, rfl, rfl⟩, rfl, by decide +kernel,
    ⟨_, rfl⟩, rfl⟩

/-- With no announced answer the collaborator gives the free value. -/
theorem witness_ibus_free : ∃ (a : IbusAnswer) (s s1 : State), s.ibusAns = [] ∧ a = Config.ibusAnswer s.ibusCalls ∧
    s1 = { s with ibusCalls := s.ibusCalls + 1 } :=
  ⟨_, fresh 1, _, rfl, rfl, rfl⟩

/-- The first index past each array. -/
theorem witness_index_past : 64 ≤ { fresh 2 with idx := 64 }.idx.toNat ∧
    ((0#32) - (fresh 2).lastByteMs).toNat ≤ (fresh 2).cfg.crsfByteTo ∧ 63 ≤ (holding 3 [0xC8, 63]).buf[1].toNat ∧
    16 < { fresh 0 with ppmIdx := 17 }.ppmIdx.toNat ∧
    (({ latched with latN := 17 }.fc = true ∧ latched.missed.toNat ≤ refcfg.ppmMaxMissed) ∧
      ((179#32) - latched.ppmLastFrameMs).toNat ≤ refcfg.ppmTimeoutMs ∧
      16 < { latched with latN := 17 }.latN.toNat) ∧
    16 < { fresh 1 with cfg := { refcfg with ibusNch := 17 } }.cfg.ibusNch := by decide +kernel

/-- A state in the middle of a CRSF frame, fed with events. -/
def midway : State :=
  { holding 3 [0xC8, 0x18] with idx := 2, expLen := 26, rxq := [0x16], inbox := [[0x12, 0xE8, 7]] }

theorem witness_framer_ok : FramerOk midway := by
  show CrsfCoherent midway
  decide +kernel

theorem witness_capture_ok : CaptureOk midway :=
  ⟨by decide +kernel, by decide +kernel, by decide +kernel⟩

theorem witness_invariant : Inv midway ∧ ∃ t, step midway = .next t :=
  ⟨⟨refcfg_legal, by decide +kernel, witness_framer_ok, witness_capture_ok, by decide +kernel⟩, ⟨_, rfl⟩⟩

theorem witness_dormant : EventsOnly midway ∧ Dormant midway :=
  ⟨by decide +kernel,
    fun _ => ⟨rfl, rfl, rfl, rfl, rfl, rfl, rfl, rfl⟩, fun h => absurd h (by decide +kernel),
    fun h => absurd rfl h, by decide +kernel⟩

theorem witness_selector_changes : (∃ t, exec (.reset 2) (fresh 0) = .next t) ∧
    (∃ t, exec (.step 1000) (fresh 0) = .next t) ∧ ∀ psel, Instr.step 1000 ≠ .reset psel :=
  ⟨⟨_, rfl⟩, ⟨_, rfl⟩, fun _ h => nomatch h⟩

theorem witness_times_ordered : timesOrdered midway.time midway.inbox := ⟨by decide, trivial⟩

theorem witness_ignores_capture : (∃ t, exec (.stepSbus 1) (fed 2 [1]) = .next t) ∧
    (∃ t, exec (.stepCrsf 1) (fed 3 [1]) = .next t) ∧ (∃ t, exec (.stepDsm2 1) (fed 4 [1]) = .next t) ∧
    (∃ t, exec (.stepDsmx 1) (fed 5 [1]) = .next t) ∧ (∃ t, exec (.stepFport 1) (fed 6 [1]) = .next t) ∧
    ∃ t, exec .stepIbus { fresh 1 with ibusAns := [⟨true, Vector.replicate 16 1800⟩] } = .next t :=
  ⟨⟨_, rfl⟩, ⟨_, rfl⟩, ⟨_, rfl⟩, ⟨_, rfl⟩, ⟨_, rfl⟩, ⟨_, rfl⟩⟩

theorem witness_event_log : ∃ t, exec (.sbusByte 0x55 1) (fresh 2) = .next t := ⟨_, rfl⟩

end Sys2Proof.Tests
end

section
/-! What an operation leaves alone (10_state.md R35, 20_memory.md R49, R51). A state with the fields that a part of RCDEC
may write blanked out stands for the rest of the state: two states with the same blanked form agree on the rest, and that
relation is an equality, so it composes with no lemma of its own. -/

namespace Sys2Proof.Machine

/-- The state without what a byte-stream decoder may write: the framer session state, the channels, the queue, the
result and the event log. -/
def State.eraseFramer (s : State) : State :=
  { s with
    ch := Vector.replicate 16 0, buf := Vector.replicate 64 0, idx := 0, expLen := 0, lastByteMs := 0
    lastFrameMs := 0, rxq := [], out := .none, log := [] }

/-- The state without what the edge handler may write: the capture state and the event log. -/
def State.eraseCapture (s : State) : State :=
  { s with
    lastEdgeUs := 0, pw := Vector.replicate 16 0, ppmIdx := 0, lat := Vector.replicate 16 0, latN := 0, fc := false
    missed := 0, ppmLastFrameMs := 0, log := [] }

/-- What only RESET and the environment write: the selector, the configuration and the records still to come. -/
def State.wiring (s : State) : Psel × Cfg × List (List Byte) := (s.psel, s.cfg, s.inbox)

/-- From `s` to `t` only what a byte-stream decoder may write has changed. -/
abbrev OnlyFramer (s t : State) : Prop := t.eraseFramer = s.eraseFramer

/-- From `s` to `t` only what the edge handler may write has changed. -/
abbrev OnlyCapture (s t : State) : Prop := t.eraseCapture = s.eraseCapture

/-- From `s` to `t` the selector, the configuration and the records have not changed. -/
abbrev SameWiring (s t : State) : Prop := t.wiring = s.wiring

theorem sameWiring_iff {s t : State} : SameWiring s t ↔ t.psel = s.psel ∧ t.cfg = s.cfg ∧ t.inbox = s.inbox := by
  simp [SameWiring, State.wiring]

theorem OnlyFramer.sameWiring {s t : State} (h : OnlyFramer s t) : SameWiring s t :=
  show t.eraseFramer.wiring = s.eraseFramer.wiring from congrArg State.wiring h

theorem OnlyCapture.sameWiring {s t : State} (h : OnlyCapture s t) : SameWiring s t :=
  show t.eraseCapture.wiring = s.eraseCapture.wiring from congrArg State.wiring h

/-- The fields of a state that only the edge handler has changed, written out. -/
theorem OnlyCapture.eq {s t : State} (h : OnlyCapture s t) :
    t = { s with
      lastEdgeUs := t.lastEdgeUs, pw := t.pw, ppmIdx := t.ppmIdx, lat := t.lat, latN := t.latN, fc := t.fc
      missed := t.missed, ppmLastFrameMs := t.ppmLastFrameMs, log := t.log } := by
  have refill (r u : State) : { r.eraseCapture with
      lastEdgeUs := u.lastEdgeUs, pw := u.pw, ppmIdx := u.ppmIdx, lat := u.lat, latN := u.latN, fc := u.fc
      missed := u.missed, ppmLastFrameMs := u.ppmLastFrameMs, log := u.log } = { r with
      lastEdgeUs := u.lastEdgeUs, pw := u.pw, ppmIdx := u.ppmIdx, lat := u.lat, latN := u.latN, fc := u.fc
      missed := u.missed, ppmLastFrameMs := u.ppmLastFrameMs, log := u.log } := rfl
  rw [← refill, ← h]
  rfl

end Sys2Proof.Machine
end

section
/-! The normalisers answer a value in the canonical range (41_normalizer.md R107). -/

namespace Sys2Proof.Machine

theorem clamp_bounds {v lo hi : Nat} (h : lo ≤ hi) : lo ≤ clamp v lo hi ∧ clamp v lo hi ≤ hi := by
  unfold clamp
  split
  · exact ⟨le_rfl, h⟩
  · split <;> omega

/-- SCALE maps onto [1000, 2000] (R100). -/
theorem scale_bounds {raw lo hi : Nat} (h : lo < hi) : 1000 ≤ scale raw lo hi ∧ scale raw lo hi ≤ 2000 := by
  have hc := clamp_bounds (v := raw) h.le
  rw [scale, if_pos h]
  have hq : ((clamp raw lo hi - lo) * 2000 + (hi - lo)) / (2 * (hi - lo)) < 1001 := by
    rw [Nat.div_lt_iff_lt_mul (by omega)]
    omega
  exact ⟨Nat.le_add_right _ _, Nat.add_le_add_left (Nat.le_of_lt_succ hq) 1000⟩

theorem inRange_ofNat {n : Nat} (h : 1000 ≤ n ∧ n ≤ 2000) : InRange (BitVec.ofNat 16 n) := by
  simp only [InRange, BitVec.toNat_ofNat]
  omega

theorem normS11_inRange (raw : BitVec 11) : InRange (normS11 raw) := inRange_ofNat (scale_bounds (by decide))
theorem normU11_inRange (raw : BitVec 11) : InRange (normU11 raw) := inRange_ofNat (scale_bounds (by decide))
theorem normU10_inRange (raw : BitVec 10) : InRange (normU10 raw) := inRange_ofNat (scale_bounds (by decide))
theorem normPpm_inRange (w : Half) : InRange (normPpm w) := inRange_ofNat (clamp_bounds (by decide))
theorem normIbus_inRange (v : Half) : InRange (normIbus v) := inRange_ofNat (clamp_bounds (by decide))

/-- Every entry of a bank of sixteen is in range: what `ChInRange` says of the Channel Buffer. -/
abbrev BankInRange (ch : Vector Half 16) : Prop := ∀ i : Fin 16, InRange ch[i]

theorem unpackChannels_inRange (p : Vector Byte 22) : BankInRange (unpackChannels p) := by
  intro i
  rw [unpackChannels_get]
  exact normS11_inRange _

theorem copyFirst_inRange {n : Nat} {f : Fin 16 → Half} {old : Vector Half 16} (hf : ∀ i, InRange (f i))
    (hold : BankInRange old) : BankInRange (copyFirst n f old) := by
  intro i
  rw [copyFirst_get]
  split
  · exact hf i
  · exact hold i

theorem bankInRange_set {ch : Vector Half 16} {v : Half} (k : Nat) (hk : k < 16) (hv : InRange v)
    (hch : BankInRange ch) : BankInRange (ch.set k v hk) := by
  intro i
  rw [Fin.getElem_fin, Vector.getElem_set]
  split
  · exact hv
  · exact hch i

theorem dsmPair_inRange (v : Half) (bits : Width) {ch : Vector Half 16} (h : BankInRange ch) :
    BankInRange (dsmPair v bits ch) := by
  unfold dsmPair
  split
  · exact h
  · cases bits
    · exact bankInRange_set _ _ (normU10_inRange _) h
    · exact bankInRange_set _ _ (normU11_inRange _) h

theorem foldl_dsmPair_inRange (bits : Width) (vs : List Half) {ch : Vector Half 16} (h : BankInRange ch) :
    BankInRange (vs.foldl (fun ch v => dsmPair v bits ch) ch) := by
  induction vs generalizing ch with
  | nil => exact h
  | cons v vs ih => exact ih (dsmPair_inRange v bits h)

end Sys2Proof.Machine
end

section
/-! The byte-stream decoders by policy (42_framing.md R110, R120): one name for the byte operation, the STEP and the
selector code of each, and what one popped byte can do. -/

namespace Sys2Proof.Machine

/-- The decoder whose STEP arm uses a policy (R60, R62). -/
def policyProtocol : Policy → Protocol
  | .sbus => .sbus
  | .crsf => .crsf
  | .dsm2 => .dsm2
  | .dsmx => .dsmx
  | .fport => .fport

/-- The policy of a DSM bit width (R145). -/
def dsmPolicy : Width → Policy
  | .ten => .dsm2
  | .eleven => .dsmx

/-- The byte operation of a policy: the protocols' own X.BYTE. -/
def policyByte (x : Policy) (now : Stamp) (b : Byte) (s : State) : Except Fault (State × Verdict) :=
  match x with
  | .sbus => sbusByte b now s
  | .crsf => crsfByte b now s
  | .dsm2 => dsmByte b now .ten s
  | .dsmx => dsmByte b now .eleven s
  | .fport => fportByte b now s

/-- The STEP of a policy: the protocols' own STEP.X. -/
def policyStep (x : Policy) (now : Stamp) (s : State) : Except Fault State :=
  byteStreamStep (policyByte x now) (policyFrameTo s.cfg x) now s

theorem stepSbus_eq (now : Stamp) (s : State) : stepSbus now s = policyStep .sbus now s := rfl
theorem stepCrsf_eq (now : Stamp) (s : State) : stepCrsf now s = policyStep .crsf now s := rfl
theorem stepFport_eq (now : Stamp) (s : State) : stepFport now s = policyStep .fport now s := rfl
theorem stepDsm_eq (now : Stamp) (bits : Width) (s : State) :
    stepDsm now bits s = policyStep (dsmPolicy bits) now s := by cases bits <;> rfl

/-- STEP(T) under a byte-stream selector is the STEP of its policy (R92). -/
theorem stepDispatch_of_policy {x : Policy} {s : State} (t : Nat) (h : s.cfg.proto s.psel = policyProtocol x) :
    stepDispatch t s = policyStep x (tMs t) s := by
  cases x <;>
    simp only [stepDispatch, h, policyProtocol, stepSbus_eq, stepCrsf_eq, stepDsm_eq, dsmPolicy, stepFport_eq]

theorem dsmByte_eq (b : Byte) (now : Stamp) (bits : Width) (s : State) :
    dsmByte b now bits s = policyByte (dsmPolicy bits) now b s := by cases bits <;> rfl

/-- What the frame operation of a policy can do: a label and no more, or in-range channels from in-range ones and the
stamp. -/
theorem policyFrame_ok_cases {x : Policy} {now : Stamp} {s t : State} {v : Verdict}
    (h : policyFrame x now s = .ok (t, v)) :
    (∃ l, t = s.raise l) ∨
    (∃ ch, (ChInRange s → BankInRange ch) ∧ t = (s.withCh ch).withFrameStamp now) := by
  cases x with
  | sbus =>
    rcases sbusFrame_cases now s with ⟨l, e⟩ | e <;> simp only [policyFrame, e, Except.ok.injEq, Prod.mk.injEq] at h
    · exact .inl ⟨l, h.1.symm⟩
    · exact .inr ⟨_, fun _ => unpackChannels_inRange _, h.1.symm⟩
  | crsf =>
    by_cases hb : s.buf[1].toNat + 1 < 64
    · rcases crsfFrame_cases now s hb with ⟨l, e⟩ | e <;>
        simp only [policyFrame, e, Except.ok.injEq, Prod.mk.injEq] at h
      · exact .inl ⟨l, h.1.symm⟩
      · exact .inr ⟨_, fun _ => unpackChannels_inRange _, h.1.symm⟩
    · simp [policyFrame, crsfFrame, hb] at h
  | dsm2 =>
    cases h
    exact .inr ⟨_, foldl_dsmPair_inRange .ten _, rfl⟩
  | dsmx =>
    cases h
    exact .inr ⟨_, foldl_dsmPair_inRange .eleven _, rfl⟩
  | fport =>
    rcases fportFrame_cases now s with ⟨l, e⟩ | e <;> simp only [policyFrame, e, Except.ok.injEq, Prod.mk.injEq] at h
    · exact .inl ⟨l, h.1.symm⟩
    · exact .inr ⟨_, fun _ => unpackChannels_inRange _, h.1.symm⟩

/-- What one popped byte `b` can do to the state `g` that the gap check left (R113 to R116). -/
inductive ByteEffect (x : Policy) (now : Stamp) (b : Byte) (g : State) : State → Verdict → Prop where
  /-- R113: in sync search, and not the header -/
  | badSync (l : Label) (h0 : g.idx = 0) : ByteEffect x now b g (g.raise l) .none
  /-- R114: an illegal length byte; back to sync search -/
  | badLength (l : Label) (h1 : g.idx = 1) : ByteEffect x now b g ((g.raise l).withIdx 0) .none
  /-- R114: a legal length byte sets `exp_len` -/
  | takeLength (ok : Byte → Bool) (h64 : g.idx.toNat < 64) (h1 : g.idx = 1) (hrule : policyLengthOk g.cfg x = some ok)
      (hb : ok b = true) : ByteEffect x now b g ((g.withByte b h64).withExpLen (policyLengthOf x b)) .none
  /-- R115: the byte is stored and the frame is not complete -/
  | stored (h64 : g.idx.toNat < 64) (h1 : g.idx = 1 → policyLengthOk g.cfg x = none)
      (hlen : g.idx = 0 ∨ (g.idx + 1).toNat ≠ policyFrameLen g x) : ByteEffect x now b g (g.withByte b h64) .none
  /-- R116: the byte completes the frame, and the frame operation runs in sync search -/
  | completed (h64 : g.idx.toNat < 64) (hlen : (g.idx + 1).toNat = policyFrameLen g x) {t : State} {v : Verdict}
      (hf : policyFrame x now ((g.withByte b h64).withIdx 0) = .ok (t, v)) : ByteEffect x now b g t v

/-- R32: a store past the buffer faults (log entry 9). -/
theorem storeByte_of_ge {b : Byte} {s : State} (h : 64 ≤ s.idx.toNat) :
    storeByte b s = .error (.indexRange .buf s.idx.toNat) := by
  rw [storeByte, dif_neg (by omega)]

/-- Every byte operation stores at an index past the buffer, and so faults there. -/
theorem policyByte_of_ge {x : Policy} {now : Stamp} {b : Byte} {s : State}
    (h : 64 ≤ (gapCheck (policyByteTo s.cfg x) now s).idx.toNat) :
    policyByte x now b s = .error (.indexRange .buf (gapCheck (policyByteTo s.cfg x) now s).idx.toNat) := by
  have h0 : (gapCheck (policyByteTo s.cfg x) now s).idx ≠ 0 := fun e => by rw [e] at h; exact absurd h (by decide)
  have h1 : (gapCheck (policyByteTo s.cfg x) now s).idx ≠ 1 := fun e => by rw [e] at h; exact absurd h (by decide)
  cases x <;> simp only [policyByteTo] at h h0 h1 ⊢
  case sbus => simp only [policyByte, sbusByte, storeByte_of_ge h, h0, false_and, if_false]
  case crsf => simp only [policyByte, crsfByte, storeByte_of_ge h, h0, h1, if_false]
  case dsm2 => simp only [policyByte, dsmByte, storeByte_of_ge h]
  case dsmx => simp only [policyByte, dsmByte, storeByte_of_ge h]
  case fport => simp only [policyByte, fportByte, storeByte_of_ge h, h0, h1, if_false]

/-- A byte operation that answers had a fill index in the buffer. -/
theorem idx_lt_of_policyByte_ok {x : Policy} {now : Stamp} {b : Byte} {s : State} {p : State × Verdict}
    (h : policyByte x now b s = .ok p) : (gapCheck (policyByteTo s.cfg x) now s).idx.toNat < 64 := by
  by_contra hge
  rw [policyByte_of_ge (Nat.le_of_not_lt hge)] at h
  cases h

/-- SBUS.BYTE (R126). -/
theorem sbusByte_effect {b : Byte} {now : Stamp} {s t : State} {v : Verdict} (h : sbusByte b now s = .ok (t, v)) :
    ByteEffect .sbus now b (gapCheck s.cfg.sbusByteTo now s) t v := by
  have h64 : (gapCheck s.cfg.sbusByteTo now s).idx.toNat < 64 := idx_lt_of_policyByte_ok (x := .sbus) h
  unfold sbusByte at h
  generalize gapCheck s.cfg.sbusByteTo now s = g at h h64 ⊢
  simp only [storeByte_of_lt h64] at h
  split at h
  case isTrue hs => cases h; exact .badSync _ hs.1
  case isFalse =>
    split at h
    case isTrue h25 => exact .completed (x := .sbus) h64 (congrArg BitVec.toNat h25) h
    case isFalse h25 => cases h; exact .stored h64 (fun _ => rfl) (.inr fun e => h25 (BitVec.eq_of_toNat_eq e))

/-- DSM.BYTE (R146). -/
theorem dsmByte_effect {b : Byte} {now : Stamp} {bits : Width} {s t : State} {v : Verdict}
    (h : dsmByte b now bits s = .ok (t, v)) :
    ByteEffect (dsmPolicy bits) now b (gapCheck s.cfg.dsmByteTo now s) t v := by
  have hto : policyByteTo s.cfg (dsmPolicy bits) = s.cfg.dsmByteTo := by cases bits <;> rfl
  have h64 := idx_lt_of_policyByte_ok (dsmByte_eq b now bits s ▸ h)
  rw [hto] at h64
  unfold dsmByte at h
  generalize gapCheck s.cfg.dsmByteTo now s = g at h h64 ⊢
  have hlen : policyFrameLen g (dsmPolicy bits) = 16 := by cases bits <;> rfl
  have hrule : policyLengthOk g.cfg (dsmPolicy bits) = none := by cases bits <;> rfl
  have hframe (u : State) : policyFrame (dsmPolicy bits) now u = .ok (dsmFrame now bits u) := by cases bits <;> rfl
  simp only [storeByte_of_lt h64] at h
  split at h
  case isTrue h16 => exact .completed h64 (hlen ▸ congrArg BitVec.toNat h16) ((hframe _).trans h)
  case isFalse h16 =>
    cases h
    exact .stored h64 (fun _ => hrule) (.inr fun e => h16 (BitVec.eq_of_toNat_eq (e.trans hlen)))

/-- FPORT.BYTE (R156). -/
theorem fportByte_effect {b : Byte} {now : Stamp} {s t : State} {v : Verdict} (h : fportByte b now s = .ok (t, v)) :
    ByteEffect .fport now b (gapCheck s.cfg.fportByteTo now s) t v := by
  have h64 : (gapCheck s.cfg.fportByteTo now s).idx.toNat < 64 := idx_lt_of_policyByte_ok (x := .fport) h
  unfold fportByte at h
  generalize gapCheck s.cfg.fportByteTo now s = g at h h64 ⊢
  simp only [storeByte_of_lt h64] at h
  split at h
  case isTrue h0 =>
    split at h <;> cases h
    · exact .badSync _ h0
    · exact .stored h64 (fun h1 => absurd (h0.symm.trans h1) (by decide)) (.inl h0)
  case isFalse h0 =>
    split at h
    case isTrue h1 =>
      split at h <;> cases h
      case isTrue => exact .badLength _ h1
      case isFalse hb => exact .takeLength _ h64 h1 rfl (by simpa using hb)
    case isFalse h1 =>
      split at h
      case isTrue h29 => exact .completed (x := .fport) h64 (congrArg BitVec.toNat h29) h
      case isFalse h29 =>
        cases h
        exact .stored h64 (absurd · h1) (.inr fun e => h29 (BitVec.eq_of_toNat_eq e))

/-- CRSF.BYTE (R136). -/
theorem crsfByte_effect {b : Byte} {now : Stamp} {s t : State} {v : Verdict} (h : crsfByte b now s = .ok (t, v)) :
    ByteEffect .crsf now b (gapCheck s.cfg.crsfByteTo now s) t v := by
  have h64 : (gapCheck s.cfg.crsfByteTo now s).idx.toNat < 64 := idx_lt_of_policyByte_ok (x := .crsf) h
  unfold crsfByte at h
  generalize gapCheck s.cfg.crsfByteTo now s = g at h h64 ⊢
  simp only [storeByte_of_lt h64] at h
  split at h
  case isTrue h0 =>
    split at h <;> cases h
    · exact .badSync _ h0
    · exact .stored h64 (fun h1 => absurd (h0.symm.trans h1) (by decide)) (.inl h0)
  case isFalse h0 =>
    split at h
    case isTrue h1 =>
      split at h <;> cases h
      case isTrue => exact .badLength _ h1
      case isFalse hb => exact .takeLength _ h64 h1 rfl (by simpa using hb)
    case isFalse h1 =>
      split at h
      case isTrue hl => exact .completed (x := .crsf) h64 (congrArg BitVec.toNat hl) h
      case isFalse hl =>
        cases h
        exact .stored h64 (absurd · h1) (.inr fun e => hl (BitVec.eq_of_toNat_eq e))

/-- Every byte operation is a gap check and then one of the five effects. -/
theorem policyByte_effect {x : Policy} {now : Stamp} {b : Byte} {s t : State} {v : Verdict}
    (h : policyByte x now b s = .ok (t, v)) : ByteEffect x now b (gapCheck (policyByteTo s.cfg x) now s) t v := by
  cases x with
  | sbus => exact sbusByte_effect h
  | crsf => exact crsfByte_effect h
  | dsm2 => exact dsmByte_effect (bits := .ten) h
  | dsmx => exact dsmByte_effect (bits := .eleven) h
  | fport => exact fportByte_effect h

end Sys2Proof.Machine
end

section
/-! What each operation may write, by the blanked forms above. -/

namespace Sys2Proof.Machine

/-! ### The byte-stream decoders -/

theorem gapCheck_onlyFramer (lim : Nat) (now : Stamp) (s : State) : OnlyFramer s (gapCheck lim now s) := by
  rcases gapCheck_cases lim now s with ⟨-, -, e⟩ | ⟨-, e⟩ <;> rw [e] <;> rfl

theorem policyFrame_onlyFramer {x : Policy} {now : Stamp} {s t : State} {v : Verdict}
    (h : policyFrame x now s = .ok (t, v)) : OnlyFramer s t := by
  rcases policyFrame_ok_cases h with ⟨l, rfl⟩ | ⟨ch, -, rfl⟩ <;> rfl

theorem ByteEffect.onlyFramer {x : Policy} {now : Stamp} {b : Byte} {g t : State} {v : Verdict}
    (h : ByteEffect x now b g t v) : OnlyFramer g t := by
  cases h with
  | badSync => rfl
  | badLength => rfl
  | takeLength => rfl
  | stored => rfl
  | completed h64 hlen hf => exact (policyFrame_onlyFramer hf).trans rfl

theorem policyByte_onlyFramer {x : Policy} {now : Stamp} {b : Byte} {s t : State} {v : Verdict}
    (h : policyByte x now b s = .ok (t, v)) : OnlyFramer s t :=
  (policyByte_effect h).onlyFramer.trans (gapCheck_onlyFramer _ _ _)

theorem framerStore_onlyFramer {x : Policy} {now : Stamp} {b : Byte} {s t : State} {v : Verdict}
    (h : framerStore x b now s = .ok (t, v)) : OnlyFramer s t := by
  unfold framerStore at h
  split at h
  case h_1 => cases h
  case h_2 u hu =>
    obtain ⟨h64, rfl⟩ := storeByte_ok_iff.mp hu
    split at h
    case isTrue => exact (policyFrame_onlyFramer h).trans rfl
    case isFalse => cases h; rfl

theorem framerByte_onlyFramer {x : Policy} {now : Stamp} {b : Byte} {s t : State} {v : Verdict}
    (h : framerByte x b now s = .ok (t, v)) : OnlyFramer s t := by
  refine Eq.trans ?_ (gapCheck_onlyFramer (policyByteTo s.cfg x) now s)
  unfold framerByte at h
  dsimp only at h
  split at h
  case isTrue => cases h; rfl
  case isFalse =>
    split at h
    case isFalse => exact framerStore_onlyFramer h
    case isTrue =>
      split at h
      case h_1 => exact framerStore_onlyFramer h
      case h_2 =>
        split at h
        case isTrue => exact (framerStore_onlyFramer h).trans rfl
        case isFalse => cases h; rfl

/-- A property that the byte operation, an error and the return of a result keep is kept by the STEP (R121). -/
theorem byteStreamStep_keeps {op : Byte → State → Except Fault (State × Verdict)} (P : State → Prop)
    (hq : ∀ s q, P s → P (s.withRxq q)) (hop : ∀ b s s' v, P s → op b s = .ok (s', v) → P s')
    (hraise : ∀ s l, P s → P (s.raise l)) (hout : ∀ s o, P s → P (s.withOut o)) {lim : Nat} {now : Stamp} {s t : State}
    (hs : P s) (h : byteStreamStep op lim now s = .ok t) : P t := by
  rcases byteStreamStep_ok_cases h with ⟨u, hd, rfl⟩ | ⟨u, hd, -, rfl⟩ | ⟨u, hd, -, rfl⟩
  · exact hout _ _ (drain_keeps P hq hop _ _ _ _ hs hd)
  · exact hout _ _ (drain_keeps P hq hop _ _ _ _ hs hd)
  · exact hout _ _ (hraise _ _ (drain_keeps P hq hop _ _ _ _ hs hd))

theorem byteStreamStep_onlyFramer {op : Byte → State → Except Fault (State × Verdict)}
    (hop : ∀ b s s' v, op b s = .ok (s', v) → OnlyFramer s s') {lim : Nat} {now : Stamp} {s t : State}
    (h : byteStreamStep op lim now s = .ok t) : OnlyFramer s t :=
  byteStreamStep_keeps (OnlyFramer s) (fun _ _ hu => hu) (fun b u u' v hu hb => (hop b u u' v hb).trans hu)
    (fun _ _ hu => hu) (fun _ _ hu => hu) rfl h

theorem policyStep_onlyFramer {x : Policy} {now : Stamp} {s t : State} (h : policyStep x now s = .ok t) :
    OnlyFramer s t :=
  byteStreamStep_onlyFramer (fun _ _ _ _ hb => policyByte_onlyFramer hb) h

theorem framerStep_onlyFramer {x : Policy} {now : Stamp} {s t : State} (h : framerStep x now s = .ok t) :
    OnlyFramer s t :=
  byteStreamStep_onlyFramer (fun _ _ _ _ hb => framerByte_onlyFramer hb) h

/-! ### The IBUS adapter and the PPM poll -/

/-- STEP.IBUS (R186) writes the channels, in range, the result and the model's own account of the answers. -/
theorem stepIbus_ok {s t : State} (h : stepIbus s = .ok t) :
    ∃ ch out answers calls, (ChInRange s → BankInRange ch) ∧
      t = { s with ch := ch, out := out, ibusAns := answers, ibusCalls := calls } := by
  obtain ⟨answers, calls, hadv⟩ : ∃ answers calls,
      (ibusAdvance s).2 = { s with ibusAns := answers, ibusCalls := calls } := by
    unfold ibusAdvance
    split
    · exact ⟨_, _, rfl⟩
    · exact ⟨_, _, rfl⟩
  unfold stepIbus ibusCopy at h
  rw [hadv] at h
  split at h
  case isTrue => cases h; exact ⟨_, _, _, _, id, rfl⟩
  case isFalse =>
    split at h
    case isTrue => cases h; exact ⟨_, _, _, _, copyFirst_inRange fun _ => normIbus_inRange _, rfl⟩
    case isFalse => cases h

/-- STEP.PPM (R172) writes the channels, in range, the result, the event log and `fc`, which it never sets. -/
theorem stepPpm_ok {now : Stamp} {s t : State} (h : stepPpm now s = .ok t) :
    ∃ ch fc out log, (ChInRange s → BankInRange ch) ∧ (fc = true → s.fc = true) ∧
      t = { s with ch := ch, fc := fc, out := out, log := log } := by
  unfold stepPpm at h
  split at h
  case isTrue => cases h; exact ⟨_, _, _, _, id, id, rfl⟩
  case isFalse =>
    split at h
    case isTrue => cases h; exact ⟨_, _, _, _, id, id, rfl⟩
    case isFalse =>
      split at h
      case isTrue => cases h; exact ⟨_, _, _, _, id, id, rfl⟩
      case isFalse =>
        unfold ppmCritical at h
        by_cases hn : s.latN.toNat ≤ 16
        · rw [if_pos hn] at h
          cases h
          exact ⟨_, false, _, _, copyFirst_inRange fun _ => normPpm_inRange _, (nomatch ·), rfl⟩
        · rw [if_neg hn] at h
          cases h

/-! ### The edge handler -/

theorem edgeSyncAcc_ok {tms : Stamp} {s t : State} (h : edgeSyncAcc tms s = .ok t) :
    s.ppmIdx.toNat ≤ 16 ∧ t = { s with
      latN := s.ppmIdx, lat := copyFirst s.ppmIdx.toNat (fun i => s.pw[i]) s.lat, fc := true, missed := 0
      ppmLastFrameMs := tms, ppmIdx := 0 } := by
  unfold edgeSyncAcc at h
  split at h
  case isTrue hn => cases h; exact ⟨hn, rfl⟩
  case isFalse => cases h

/-- EDGE.CHAN (R170) stores the width, or drops a seventeenth pulse. -/
theorem edgeChan_cases (w : Stamp) (s : State) :
    (∃ h : s.ppmIdx.toNat < 16, edgeChan w s =
      { s with pw := s.pw.set s.ppmIdx.toNat (w.setWidth 16) h, ppmIdx := s.ppmIdx + 1 }) ∨
    edgeChan w s = s := by
  unfold edgeChan
  split
  case isTrue h => exact .inl ⟨h, rfl⟩
  case isFalse => exact .inr rfl

theorem edgeSyncAcc_onlyCapture {tms : Stamp} {s t : State} (h : edgeSyncAcc tms s = .ok t) : OnlyCapture s t := by
  obtain ⟨-, rfl⟩ := edgeSyncAcc_ok h
  rfl

theorem edgeSyncRej_onlyCapture (s : State) : OnlyCapture s (edgeSyncRej s) := rfl

theorem edgeChan_onlyCapture (w : Stamp) (s : State) : OnlyCapture s (edgeChan w s) := by
  rcases edgeChan_cases w s with ⟨h, e⟩ | e <;> rw [e]
  rfl

/-- The arm that a width selects (R166): a label and no more, a frame completed, a frame missed, or a pulse. -/
theorem edgeClassified_ok_cases {w tms : Stamp} {s t : State} (h : edgeClassified w tms s = .ok t) :
    (∃ l, t = s.raise l) ∨ (4 ≤ s.ppmIdx.toNat ∧ edgeSyncAcc tms s = .ok t) ∨ t = edgeSyncRej s ∨ t = edgeChan w s := by
  unfold edgeClassified at h
  split at h
  case h_1 => cases h; exact .inl ⟨_, rfl⟩
  case h_2 =>
    split at h
    case isTrue hn => exact .inr (.inl ⟨hn.1, h⟩)
    case isFalse => cases h; exact .inr (.inr (.inl rfl))
  case h_3 => cases h; exact .inr (.inr (.inr rfl))
  case h_4 => cases h; exact .inl ⟨_, rfl⟩

/-- EDGE(T) (R166): nothing, or the arm of the measured width on the state with the edge's stamp. -/
theorem edge_ok_cases {t : Nat} {s u : State} (h : edge t s = .ok u) :
    u = s ∨ edgeClassified (tUs t - s.lastEdgeUs) (tMs t) (s.withEdgeStamp (tUs t)) = .ok u := by
  unfold edge at h
  split at h
  case isTrue => exact .inr h
  case isFalse => cases h; exact .inl rfl

theorem edgeClassified_onlyCapture {w tms : Stamp} {s t : State} (h : edgeClassified w tms s = .ok t) :
    OnlyCapture s t := by
  rcases edgeClassified_ok_cases h with ⟨l, rfl⟩ | ⟨-, ha⟩ | rfl | rfl
  · rfl
  · exact edgeSyncAcc_onlyCapture ha
  · exact edgeSyncRej_onlyCapture s
  · exact edgeChan_onlyCapture w s

theorem edge_onlyCapture {t : Nat} {s u : State} (h : edge t s = .ok u) : OnlyCapture s u := by
  rcases edge_ok_cases h with rfl | hc
  · rfl
  · exact (edgeClassified_onlyCapture hc).trans rfl

/-- No arm of the handler clears `fc` (R35). -/
theorem edgeClassified_fc {w tms : Stamp} {s t : State} (h : edgeClassified w tms s = .ok t) (hfc : s.fc = true) :
    t.fc = true := by
  rcases edgeClassified_ok_cases h with ⟨l, rfl⟩ | ⟨-, ha⟩ | rfl | rfl
  · exact hfc
  · obtain ⟨-, rfl⟩ := edgeSyncAcc_ok ha
    rfl
  · exact hfc
  · rcases edgeChan_cases w s with ⟨h, e⟩ | e <;> rw [e] <;> exact hfc

theorem edge_fc {t : Nat} {s u : State} (h : edge t s = .ok u) (hfc : s.fc = true) : u.fc = true := by
  rcases edge_ok_cases h with rfl | hc
  · exact hfc
  · exact edgeClassified_fc hc hfc

/-! ### Every operation but RESET -/

theorem stepIbus_sameWiring {s t : State} (h : stepIbus s = .ok t) : SameWiring s t := by
  obtain ⟨ch, out, answers, calls, -, rfl⟩ := stepIbus_ok h
  rfl

theorem stepPpm_sameWiring {now : Stamp} {s t : State} (h : stepPpm now s = .ok t) : SameWiring s t := by
  obtain ⟨ch, fc, out, log, -, -, rfl⟩ := stepPpm_ok h
  rfl

theorem policyStep_sameWiring {x : Policy} {now : Stamp} {s t : State} (h : policyStep x now s = .ok t) :
    SameWiring s t := (policyStep_onlyFramer h).sameWiring

/-- The STEP that the dispatcher invokes (R92): a poll, the adapter, the STEP of a policy, or the reserved arm. -/
theorem stepDispatch_ok_cases {t : Nat} {s u : State} (h : stepDispatch t s = .ok u) :
    (s.cfg.proto s.psel = .ppm ∧ stepPpm (tMs t) s = .ok u) ∨ (s.cfg.proto s.psel = .ibus ∧ stepIbus s = .ok u) ∨
    (∃ x, s.cfg.proto s.psel = policyProtocol x ∧ policyStep x (tMs t) s = .ok u) ∨
    (s.cfg.proto s.psel = .rsvd ∧ u = stepRsvd s) := by
  have stream (x : Policy) (hx : s.cfg.proto s.psel = policyProtocol x) :
      ∃ x, s.cfg.proto s.psel = policyProtocol x ∧ policyStep x (tMs t) s = .ok u :=
    ⟨x, hx, stepDispatch_of_policy t hx ▸ h⟩
  cases hp : s.cfg.proto s.psel with
  | ppm => simp only [stepDispatch, hp] at h; exact .inl ⟨rfl, h⟩
  | ibus => simp only [stepDispatch, hp] at h; exact .inr (.inl ⟨rfl, h⟩)
  | sbus => exact .inr (.inr (.inl (hp ▸ stream .sbus hp)))
  | crsf => exact .inr (.inr (.inl (hp ▸ stream .crsf hp)))
  | dsm2 => exact .inr (.inr (.inl (hp ▸ stream .dsm2 hp)))
  | dsmx => exact .inr (.inr (.inl (hp ▸ stream .dsmx hp)))
  | fport => exact .inr (.inr (.inl (hp ▸ stream .fport hp)))
  | rsvd => simp only [stepDispatch, hp] at h; cases h; exact .inr (.inr (.inr ⟨rfl, rfl⟩))

theorem stepDispatch_sameWiring {t : Nat} {s u : State} (h : stepDispatch t s = .ok u) : SameWiring s u := by
  rcases stepDispatch_ok_cases h with ⟨-, h⟩ | ⟨-, h⟩ | ⟨x, -, h⟩ | ⟨-, rfl⟩
  · exact stepPpm_sameWiring h
  · exact stepIbus_sameWiring h
  · exact policyStep_sameWiring h
  · rfl

/-- The verdict that a byte or frame operation returns goes to `out`, which is not the wiring's. -/
theorem ranVerdict_sameWiring {r : Except Fault (State × Verdict)} {s t : State} (h : ranVerdict r = .next t)
    (hr : ∀ u v, r = .ok (u, v) → OnlyFramer s u) : SameWiring s t := by
  obtain ⟨u, v, hu, rfl⟩ := ranVerdict_next_iff.mp h
  exact (hr u v hu).sameWiring

/-- No operation but RESET writes the selector, and none writes the configuration or the records (R12, R51). -/
theorem exec_sameWiring {i : Instr} {s t : State} (hi : ∀ psel, i ≠ .reset psel) (h : exec i s = .next t) :
    SameWiring s t := by
  cases i with
  | reset psel => exact absurd rfl (hi psel)
  | rxpush => cases h; rfl
  | step u => exact stepDispatch_sameWiring (s := s.withTime u) (ran_next_iff.mp h)
  | edge => exact (edge_onlyCapture (ran_next_iff.mp h)).sameWiring
  | stepPpm => exact stepPpm_sameWiring (ran_next_iff.mp h)
  | stepIbus => exact stepIbus_sameWiring (ran_next_iff.mp h)
  | stepSbus => exact policyStep_sameWiring (x := .sbus) (ran_next_iff.mp h)
  | stepCrsf => exact policyStep_sameWiring (x := .crsf) (ran_next_iff.mp h)
  | stepDsm2 => exact policyStep_sameWiring (x := .dsm2) (ran_next_iff.mp h)
  | stepDsmx => exact policyStep_sameWiring (x := .dsmx) (ran_next_iff.mp h)
  | stepFport => exact policyStep_sameWiring (x := .fport) (ran_next_iff.mp h)
  | stepRsvd => cases h; rfl
  | edgeNoise => cases h; rfl
  | edgeSyncAcc => exact (edgeSyncAcc_onlyCapture (ran_next_iff.mp h)).sameWiring
  | edgeSyncRej => cases h; rfl
  | edgeChan w => cases h; exact (edgeChan_onlyCapture w s).sameWiring
  | edgeGap => cases h; rfl
  | framerStep => exact (framerStep_onlyFramer (ran_next_iff.mp h)).sameWiring
  | sbusByte => exact ranVerdict_sameWiring h fun _ _ => policyByte_onlyFramer (x := .sbus)
  | sbusFrame now =>
    exact ranVerdict_sameWiring (r := policyFrame .sbus now s) h fun _ _ => policyFrame_onlyFramer (x := .sbus)
  | crsfByte => exact ranVerdict_sameWiring h fun _ _ => policyByte_onlyFramer (x := .crsf)
  | crsfFrame => exact ranVerdict_sameWiring h fun _ _ => policyFrame_onlyFramer (x := .crsf)
  | dsmByte b now bits =>
    exact ranVerdict_sameWiring h fun _ _ e => policyByte_onlyFramer (dsmByte_eq b now bits s ▸ e)
  | dsmFrame => cases h; rfl
  | dsmPair => cases h; rfl
  | fportByte => exact ranVerdict_sameWiring h fun _ _ => policyByte_onlyFramer (x := .fport)
  | fportFrame now =>
    exact ranVerdict_sameWiring (r := policyFrame .fport now s) h fun _ _ => policyFrame_onlyFramer (x := .fport)
  | unpack11le => cases h; rfl
  | scale => cases h; rfl
  | normS11 => cases h; rfl
  | normU11 => cases h; rfl
  | normU10 => cases h; rfl
  | normPpm => cases h; rfl
  | normIbus => cases h; rfl

/-- Settles O56: RESET writes the selector it is given; every other operation leaves the wiring alone. -/
theorem selectorChangesOnlyAtReset : Obligations.SelectorChangesOnlyAtReset := by
  intro i s t h
  by_cases hi : ∃ psel, i = .reset psel
  · obtain ⟨psel, rfl⟩ := hi
    cases h
    exact ⟨rfl, rfl, fun hne => absurd rfl (hne psel), fun _ e => Instr.reset.inj e⟩
  · have hne : ∀ psel, i ≠ .reset psel := fun psel e => hi ⟨psel, e⟩
    obtain ⟨hpsel, hcfg, hinbox⟩ := sameWiring_iff.mp (exec_sameWiring hne h)
    exact ⟨hcfg, hinbox, fun _ => hpsel, fun psel e => absurd e (hne psel)⟩

/-- Settles O47: the handler writes the capture state and the log only, and no arm of it clears `fc`. -/
theorem edgeLeavesMainContextAlone : Obligations.EdgeLeavesMainContextAlone := by
  intro t s u h
  have he : edge t (s.withTime t) = .ok u := ran_next_iff.mp h
  exact ⟨(edge_onlyCapture he).eq, edge_fc (s := s.withTime t) he⟩

end Sys2Proof.Machine
end

section
/-! The invariant of 10_state.md R34: what reset, a byte, a poll and an edge do to each of its parts. -/

namespace Sys2Proof.Machine

/-! ### The parts of the invariant -/

theorem captureOk_congr {s t : State} (h : CaptureOk s) (hidx : t.ppmIdx = s.ppmIdx) (hn : t.latN = s.latN)
    (hfc : t.fc = true → s.fc = true) : CaptureOk t where
  ppmIdxBound := hidx ▸ h.ppmIdxBound
  latNBound := hn ▸ h.latNBound
  fcHasFrame := fun e => hn ▸ h.fcHasFrame (hfc e)

theorem OnlyFramer.captureOk {s t : State} (h : OnlyFramer s t) (hs : CaptureOk s) : CaptureOk t :=
  captureOk_congr hs
    (show t.eraseFramer.ppmIdx = s.eraseFramer.ppmIdx from congrArg State.ppmIdx h)
    (show t.eraseFramer.latN = s.eraseFramer.latN from congrArg State.latN h)
    (show t.eraseFramer.fc = true → s.eraseFramer.fc = true from fun e => h ▸ e)

theorem OnlyCapture.framerOk {s t : State} (h : OnlyCapture s t) (hs : FramerOk s) : FramerOk t :=
  show FramerOk t.eraseCapture from h ▸ hs

theorem OnlyCapture.chInRange {s t : State} (h : OnlyCapture s t) (hs : ChInRange s) : ChInRange t :=
  show ChInRange t.eraseCapture from h ▸ hs

/-- The invariant after a step that leaves the wiring alone: the configuration and the records need no argument. -/
theorem Inv.of_sameWiring {s t : State} (h : Inv s) (hw : SameWiring s t) (hch : ChInRange t) (hf : FramerOk t)
    (hc : CaptureOk t) : Inv t := by
  obtain ⟨-, hcfg, hinbox⟩ := sameWiring_iff.mp hw
  exact ⟨hcfg ▸ h.legal, hch, hf, hc, fun r hr => h.eventsOnly r (hinbox ▸ hr)⟩

/-! ### The fill index, by policy -/

/-- R34 b under the decoder of a policy: CRSF's frame length is `exp_len`, the others' is fixed. -/
def PolicyOk (x : Policy) (s : State) : Prop :=
  match x with
  | .sbus => s.idx.toNat < 25
  | .crsf => CrsfCoherent s
  | .dsm2 => s.idx.toNat < 16
  | .dsmx => s.idx.toNat < 16
  | .fport => s.idx.toNat < 29

theorem framerOk_iff_policyOk {x : Policy} {s : State} (h : s.cfg.proto s.psel = policyProtocol x) :
    FramerOk s ↔ PolicyOk x s := by
  cases x <;> simp only [FramerOk, h, policyProtocol, PolicyOk]

/-- Sync search with the `exp_len` of a good state is a good state. -/
theorem PolicyOk.of_search {x : Policy} {s t : State} (h : PolicyOk x s) (hcfg : t.cfg = s.cfg)
    (hexp : t.expLen = s.expLen) (hidx : t.idx = 0) : PolicyOk x t := by
  cases x with
  | crsf =>
    refine ⟨?_, fun h2 => absurd (hidx ▸ h2) (by decide)⟩
    rw [hcfg, hexp]
    exact h.1
  | sbus => show t.idx.toNat < 25; rw [hidx]; decide
  | dsm2 => show t.idx.toNat < 16; rw [hidx]; decide
  | dsmx => show t.idx.toNat < 16; rw [hidx]; decide
  | fport => show t.idx.toNat < 29; rw [hidx]; decide

theorem PolicyOk.gapCheck {x : Policy} {s : State} (h : PolicyOk x s) (lim : Nat) (now : Stamp) :
    PolicyOk x (gapCheck lim now s) := by
  rcases gapCheck_cases lim now s with ⟨-, -, e⟩ | ⟨-, e⟩ <;> rw [e]
  · exact h.of_search rfl rfl rfl
  · exact h

/-- R114 under CRSF: a legal length byte makes `exp_len` and the stored length agree. -/
theorem crsfCoherent_of_takeLength {b : Byte} {g : State} (hl : g.cfg.Legal) (h64 : g.idx.toNat < 64) (h1 : g.idx = 1)
    (hb : g.cfg.crsfLenMin ≤ b.toNat ∧ b.toNat ≤ g.cfg.crsfLenMax) :
    CrsfCoherent ((g.withByte b h64).withExpLen (BitVec.ofNat 7 (b.toNat + 2))) := by
  obtain ⟨hmin, -, -, hmax⟩ := hl.crsfLen
  have hexp : ((g.withByte b h64).withExpLen (BitVec.ofNat 7 (b.toNat + 2))).expLen.toNat = b.toNat + 2 := by
    rw [State.withExpLen_expLen, BitVec.toNat_ofNat]
    omega
  have hbuf : ((g.withByte b h64).withExpLen (BitVec.ofNat 7 (b.toNat + 2))).buf[1] = b := by simp [h1]
  have hidx : ((g.withByte b h64).withExpLen (BitVec.ofNat 7 (b.toNat + 2))).idx.toNat = 2 := by simp [h1]
  rw [CrsfCoherent, hexp, hbuf, hidx]
  exact ⟨.inr ⟨Nat.add_le_add_right hb.1 2, Nat.add_le_add_right hb.2 2⟩, fun _ => ⟨hb.1, hb.2, rfl, by omega⟩⟩

/-- R115 under CRSF: a stored byte that is not the length byte and does not complete the frame. -/
theorem crsfCoherent_of_stored {b : Byte} {g : State} (h : CrsfCoherent g) (h64 : g.idx.toNat < 64) (h1 : g.idx ≠ 1)
    (hlen : g.idx = 0 ∨ (g.idx + 1).toNat ≠ g.expLen.toNat) : CrsfCoherent (g.withByte b h64) := by
  refine ⟨h.1, fun h2 => ?_⟩
  have hadd : (g.withByte b h64).idx.toNat = g.idx.toNat + 1 := idx_add_one_toNat h64
  have hne1 : g.idx.toNat ≠ 1 := fun e => h1 (BitVec.eq_of_toNat_eq e)
  have hge : 2 ≤ g.idx.toNat := by omega
  have hne0 : g.idx ≠ 0 := fun e => by rw [e] at hge; exact absurd hge (by decide)
  obtain ⟨hmin, hmax, hexp, hlt⟩ := h.2 hge
  have hne : g.idx.toNat + 1 ≠ g.expLen.toNat := idx_add_one_toNat h64 ▸ hlen.resolve_left hne0
  have hbuf : (g.withByte b h64).buf[1] = g.buf[1] := by
    rw [State.withByte_buf, Vector.getElem_set_ne _ _ (by omega)]
  rw [hbuf, hadd]
  exact ⟨hmin, hmax, hexp, by show _ < g.expLen.toNat; omega⟩

/-- R115 under a fixed frame length `n`: the byte does not complete the frame, so the index stays below its end. -/
theorem lt_of_stored {n : Nat} {i j : BitVec 7} (hn : 1 < n) (hj : j.toNat = i.toNat + 1) (hi : i.toNat < n)
    (hlen : i = 0 ∨ j.toNat ≠ n) : j.toNat < n := by
  rcases hlen with rfl | hne
  · rw [hj]; exact hn
  · omega

/-- One byte keeps the fill index below the frame length in force (R34 b). -/
theorem ByteEffect.policyOk {x : Policy} {now : Stamp} {b : Byte} {g t : State} {v : Verdict}
    (h : ByteEffect x now b g t v) (hl : g.cfg.Legal) (hg : PolicyOk x g) : PolicyOk x t := by
  cases h with
  | badSync => exact hg
  | badLength => exact hg.of_search rfl rfl rfl
  | takeLength ok h64 h1 hrule hb =>
    have hidx : (g.idx + 1).toNat = 2 := by rw [h1]; rfl
    cases x with
    | sbus => cases hrule
    | crsf =>
      cases hrule
      exact crsfCoherent_of_takeLength hl h64 h1 (of_decide_eq_true hb)
    | dsm2 => cases hrule
    | dsmx => cases hrule
    | fport => show (g.idx + 1).toNat < 29; omega
  | stored h64 h1 hlen =>
    have hadd := idx_add_one_toNat h64
    cases x with
    | crsf => exact crsfCoherent_of_stored hg h64 (fun e => nomatch h1 e) hlen
    | sbus => exact lt_of_stored (by decide) hadd hg hlen
    | dsm2 => exact lt_of_stored (by decide) hadd hg hlen
    | dsmx => exact lt_of_stored (by decide) hadd hg hlen
    | fport => exact lt_of_stored (by decide) hadd hg hlen
  | completed h64 hlen hf =>
    rcases policyFrame_ok_cases hf with ⟨l, rfl⟩ | ⟨ch, -, rfl⟩
    · exact hg.of_search rfl rfl rfl
    · exact hg.of_search rfl rfl rfl

theorem ByteEffect.chInRange {x : Policy} {now : Stamp} {b : Byte} {g t : State} {v : Verdict}
    (h : ByteEffect x now b g t v) (hg : ChInRange g) : ChInRange t := by
  cases h with
  | badSync => exact hg
  | badLength => exact hg
  | takeLength => exact hg
  | stored => exact hg
  | completed h64 hlen hf =>
    rcases policyFrame_ok_cases hf with ⟨l, rfl⟩ | ⟨ch, hch, rfl⟩
    · exact hg
    · exact hch hg

/-! ### The byte-stream STEPs -/

/-- What the loop of a byte-stream STEP keeps of the invariant. -/
structure StreamInv (x : Policy) (s : State) : Prop where
  legal : s.cfg.Legal
  chInRange : ChInRange s
  policyOk : PolicyOk x s

theorem policyByte_keeps_streamInv {x : Policy} {now : Stamp} {b : Byte} {s t : State} {v : Verdict}
    (hs : StreamInv x s) (h : policyByte x now b s = .ok (t, v)) : StreamInv x t := by
  have heff := policyByte_effect h
  have hcfg : t.cfg = s.cfg := (sameWiring_iff.mp (policyByte_onlyFramer h).sameWiring).2.1
  have hgch : ChInRange (gapCheck (policyByteTo s.cfg x) now s) := by
    rcases gapCheck_cases (policyByteTo s.cfg x) now s with ⟨-, -, e⟩ | ⟨-, e⟩ <;> rw [e] <;> exact hs.chInRange
  exact ⟨hcfg ▸ hs.legal, heff.chInRange hgch,
    heff.policyOk ((gapCheck_cfg (policyByteTo s.cfg x) now s).symm ▸ hs.legal) (hs.policyOk.gapCheck _ now)⟩

theorem policyStep_keeps_streamInv {x : Policy} {now : Stamp} {s t : State} (hs : StreamInv x s)
    (h : policyStep x now s = .ok t) : StreamInv x t :=
  byteStreamStep_keeps (StreamInv x) (fun _ _ hu => ⟨hu.legal, hu.chInRange, hu.policyOk⟩)
    (fun _ _ _ _ hu hb => policyByte_keeps_streamInv hu hb) (fun _ _ hu => ⟨hu.legal, hu.chInRange, hu.policyOk⟩)
    (fun _ _ hu => ⟨hu.legal, hu.chInRange, hu.policyOk⟩) hs h

theorem policyStep_keeps_inv {x : Policy} {now : Stamp} {s t : State} (hx : s.cfg.proto s.psel = policyProtocol x)
    (hs : Inv s) (h : policyStep x now s = .ok t) : Inv t := by
  have hstream := policyStep_keeps_streamInv ⟨hs.legal, hs.chInRange, (framerOk_iff_policyOk hx).mp hs.framerOk⟩ h
  have hframe := policyStep_onlyFramer h
  obtain ⟨hpsel, hcfg, -⟩ := sameWiring_iff.mp hframe.sameWiring
  have hx' : t.cfg.proto t.psel = policyProtocol x := by rw [hcfg, hpsel, hx]
  exact hs.of_sameWiring hframe.sameWiring hstream.chInRange ((framerOk_iff_policyOk hx').mpr hstream.policyOk)
    (hframe.captureOk hs.captureOk)

/-! ### The other STEPs and the edge -/

theorem stepPpm_keeps_inv {now : Stamp} {s t : State} (hs : Inv s) (h : stepPpm now s = .ok t) : Inv t := by
  obtain ⟨ch, fc, out, log, hch, hfc, rfl⟩ := stepPpm_ok h
  exact hs.of_sameWiring rfl (hch hs.chInRange) hs.framerOk (captureOk_congr hs.captureOk rfl rfl hfc)

theorem stepIbus_keeps_inv {s t : State} (hs : Inv s) (h : stepIbus s = .ok t) : Inv t := by
  obtain ⟨ch, out, answers, calls, hch, rfl⟩ := stepIbus_ok h
  exact hs.of_sameWiring rfl (hch hs.chInRange) hs.framerOk (captureOk_congr hs.captureOk rfl rfl id)

theorem stepDispatch_keeps_inv {t : Nat} {s u : State} (hs : Inv s) (h : stepDispatch t s = .ok u) : Inv u := by
  rcases stepDispatch_ok_cases h with ⟨-, h⟩ | ⟨-, h⟩ | ⟨x, hx, h⟩ | ⟨-, rfl⟩
  · exact stepPpm_keeps_inv hs h
  · exact stepIbus_keeps_inv hs h
  · exact policyStep_keeps_inv hx hs h
  · exact hs.of_sameWiring rfl hs.chInRange hs.framerOk (captureOk_congr hs.captureOk rfl rfl id)

/-- R34 c, d, e along the handler: the index counts to 16 at most, and a frame is latched with 4 to 16 channels. -/
theorem edgeClassified_keeps_captureOk {w tms : Stamp} {s t : State} (hs : CaptureOk s)
    (h : edgeClassified w tms s = .ok t) : CaptureOk t := by
  rcases edgeClassified_ok_cases h with ⟨l, rfl⟩ | ⟨h4, ha⟩ | rfl | rfl
  · exact captureOk_congr hs rfl rfl id
  · obtain ⟨h16, rfl⟩ := edgeSyncAcc_ok ha
    exact ⟨by simp, .inr ⟨h4, h16⟩, fun _ => ⟨h4, h16⟩⟩
  · exact ⟨by simp [edgeSyncRej], hs.latNBound, hs.fcHasFrame⟩
  · rcases edgeChan_cases w s with ⟨h16, e⟩ | e <;> rw [e]
    · refine ⟨?_, hs.latNBound, hs.fcHasFrame⟩
      show (s.ppmIdx + 1).toNat ≤ 16
      have hadd : (s.ppmIdx + 1).toNat ≤ s.ppmIdx.toNat + 1 := by
        rw [BitVec.toNat_add]
        exact Nat.mod_le _ _
      omega
    · exact hs

theorem edge_keeps_inv {t : Nat} {s u : State} (hs : Inv s) (h : edge t s = .ok u) : Inv u := by
  have hframe := edge_onlyCapture h
  refine hs.of_sameWiring hframe.sameWiring (hframe.chInRange hs.chInRange) (hframe.framerOk hs.framerOk) ?_
  rcases edge_ok_cases h with rfl | hc
  · exact hs.captureOk
  · exact edgeClassified_keeps_captureOk (s := s.withEdgeStamp (tUs t)) (captureOk_congr hs.captureOk rfl rfl id) hc

/-! ### RESET -/

/-- The framer at its reset values is in sync search under every decoder. -/
theorem framerOk_of_search {s : State} (hidx : s.idx = 0) (hexp : s.expLen = 0) : FramerOk s := by
  have hlt : s.idx.toNat = 0 := by rw [hidx]; rfl
  cases hp : s.cfg.proto s.psel <;> simp only [FramerOk, hp]
  case ppm => exact hidx
  case ibus => exact hidx
  case rsvd => exact hidx
  case crsf => exact ⟨.inl hexp, fun h2 => absurd h2 (by omega)⟩
  all_goals omega

/-- R33: after RESET the invariant holds, whatever the state before. -/
theorem reset_inv (psel : Psel) {s : State} (hl : s.cfg.Legal) (he : EventsOnly s) : Inv (reset psel s) where
  legal := hl
  chInRange := fun i => by
    show InRange (Vector.replicate 16 1500)[i.val]
    rw [Vector.getElem_replicate]
    decide
  framerOk := framerOk_of_search rfl rfl
  captureOk := ⟨Nat.zero_le 16, .inl rfl, (nomatch ·)⟩
  eventsOnly := he

theorem resetWith_dormant (c : Cfg) (psel : Psel) : Dormant (State.resetWith c psel) where
  capture := fun _ => ⟨rfl, rfl, rfl, rfl, rfl, rfl, rfl, rfl⟩
  framer := fun _ => ⟨rfl, rfl, rfl, rfl, rfl⟩
  expLen := fun _ _ => rfl
  ibus := rfl

theorem resetWith_inv (psel : Psel) {c : Cfg} (hl : c.Legal) : Inv (State.resetWith c psel) :=
  reset_inv psel (s := State.resetWith c psel) hl fun _ hr => nomatch hr

/-! ### One step of the machine -/

/-- A step that answers a next state: no record, or the oldest one decodes and its operation runs without it. -/
theorem step_next_cases {s t : State} (h : step s = .next t) :
    t = s ∨ ∃ r rest i, s.inbox = r :: rest ∧ decodeRecord r = .ok i ∧ exec i (s.withInbox rest) = .next t := by
  unfold step State.fetch at h
  cases hin : s.inbox with
  | nil => simp only [hin] at h; cases h; exact .inl rfl
  | cons r rest =>
    simp only [hin] at h
    cases hd : decodeRecord r with
    | error e => simp only [hd] at h; cases h
    | ok i => simp only [hd] at h; exact .inr ⟨r, rest, i, rfl, hd, h⟩

/-- Every event keeps the invariant (R34). -/
theorem exec_event_keeps_inv {i : Instr} {s t : State} (hi : i.isEvent = true) (hs : Inv s)
    (h : exec i s = .next t) : Inv t := by
  cases i with
  | reset psel => cases h; exact reset_inv psel hs.legal hs.eventsOnly
  | rxpush b =>
    cases h
    exact hs.of_sameWiring rfl hs.chInRange hs.framerOk (captureOk_congr hs.captureOk rfl rfl id)
  | step u =>
    have hu : Inv (s.withTime u) :=
      hs.of_sameWiring rfl hs.chInRange hs.framerOk (captureOk_congr hs.captureOk rfl rfl id)
    exact stepDispatch_keeps_inv hu (ran_next_iff.mp h)
  | edge u =>
    have hu : Inv (s.withTime u) :=
      hs.of_sameWiring rfl hs.chInRange hs.framerOk (captureOk_congr hs.captureOk rfl rfl id)
    exact edge_keeps_inv hu (ran_next_iff.mp h)
  | _ => cases hi

/-- Settles O53: the step takes one record off the inbox, which the invariant says is an event, and each of the four
events keeps the invariant. -/
theorem stepKeepsInvariant : Obligations.StepKeepsInvariant := by
  intro s t hs h
  rcases step_next_cases h with rfl | ⟨r, rest, i, hin, hd, hex⟩
  · exact hs
  · have hr : recordIsEvent r = true := hs.eventsOnly r (hin ▸ List.mem_cons_self)
    have hi : i.isEvent = true := by rwa [recordIsEvent, hd] at hr
    have hrest : Inv (s.withInbox rest) :=
      ⟨hs.legal, hs.chInRange, hs.framerOk, captureOk_congr hs.captureOk rfl rfl id,
        fun q hq => hs.eventsOnly q (hin ▸ List.mem_cons_of_mem r hq)⟩
    exact exec_event_keeps_inv hi hrest hex

end Sys2Proof.Machine
end

section
/-! The reset state (10_state.md R33) and the indices past an array (R32; log entry 9). -/

namespace Sys2Proof.Machine

theorem exec_reset (psel : Psel) (s : State) : exec (.reset psel) s = .next (reset psel s) := rfl

/-- Settles O9: RESET is total, and its state is R33's table read off field by field. -/
theorem resetGivesResetValues : Obligations.ResetGivesResetValues := by
  intro psel s
  refine ⟨reset psel s, exec_reset psel s, ?_, rfl, ?_, rfl, rfl, rfl, rfl, rfl, ?_, rfl, rfl, rfl, rfl, rfl, ?_, rfl,
    rfl⟩
  · exact fun i => Vector.getElem_replicate i.isLt
  · exact fun i => Vector.getElem_replicate i.isLt
  · exact fun i => ⟨Vector.getElem_replicate i.isLt, Vector.getElem_replicate i.isLt⟩
  · exact decide_eq_true_iff

/-- Settles O10: RESET builds on the environment's fields of the state before it. -/
theorem resetLeavesEnvironmentAlone : Obligations.ResetLeavesEnvironmentAlone := fun psel s =>
  ⟨reset psel s, exec_reset psel s, rfl, rfl, rfl, rfl, rfl, rfl⟩

/-- Settles O52: the state after RESET is good for every configuration, and REFCFG is a legal one. -/
theorem resetMeetsInvariant : Obligations.ResetMeetsInvariant :=
  ⟨fun c psel hl => ⟨resetWith_inv psel hl, resetWith_dormant c psel⟩, resetWith_inv 0 refcfg_legal,
    resetWith_dormant refcfg 0⟩

/-- With the gap within the timeout nothing is dropped (R112). -/
theorem gapCheck_of_le {lim : Nat} {now : Stamp} {s : State} (h : elapsed now s.lastByteMs ≤ lim) :
    gapCheck lim now s = s.withByteStamp now := by
  rcases gapCheck_cases lim now s with ⟨-, hlt, -⟩ | ⟨-, e⟩
  · omega
  · exact e

/-- A byte in time for a fill index past the buffer faults, under every policy. -/
theorem policyByte_fault_of_ge {x : Policy} {now : Stamp} {b : Byte} {s : State} (h : 64 ≤ s.idx.toNat)
    (hgap : elapsed now s.lastByteMs ≤ policyByteTo s.cfg x) :
    ranVerdict (policyByte x now b s) = .fault (.indexRange .buf s.idx.toNat) := by
  have hidx : (gapCheck (policyByteTo s.cfg x) now s).idx = s.idx := by rw [gapCheck_of_le hgap]; rfl
  rw [policyByte_of_ge (hidx.symm ▸ h), hidx]
  rfl

theorem crsfFrame_of_ge {now : Stamp} {s : State} (h : 63 ≤ s.buf[1].toNat) :
    crsfFrame now s = .error (.indexRange .buf (s.buf[1].toNat + 1)) := by
  rw [crsfFrame, dif_neg (by omega)]

theorem edgeSyncAcc_of_gt {tms : Stamp} {s : State} (h : 16 < s.ppmIdx.toNat) :
    edgeSyncAcc tms s = .error (.indexRange .pw (s.ppmIdx.toNat - 1)) := by
  rw [edgeSyncAcc, if_neg (by omega)]

/-- A poll that passes the three tests of R172 with a latched count past the bank. -/
theorem stepPpm_of_gt {now : Stamp} {s : State} (hfc : s.fc = true) (hmissed : s.missed.toNat ≤ s.cfg.ppmMaxMissed)
    (hlos : elapsed now s.ppmLastFrameMs ≤ s.cfg.ppmTimeoutMs) (h : 16 < s.latN.toNat) :
    stepPpm now s = .error (.indexRange .lat (s.latN.toNat - 1)) := by
  have htm : tooManyMissed s = false := decide_eq_false (by omega)
  have hlp : losPpm now s = false := decide_eq_false (by omega)
  have hcrit : ppmCritical s = .error (.indexRange .lat (s.latN.toNat - 1)) := by rw [ppmCritical, if_neg (by omega)]
  simp [stepPpm, hfc, htm, hlp, hcrit]

/-- A new answer for more channels than there are. -/
theorem stepIbus_of_gt {a : IbusAnswer} {rest : List IbusAnswer} {s : State} (hans : s.ibusAns = a :: rest)
    (hnew : a.new = true) (h : 16 < s.cfg.ibusNch) :
    stepIbus s = .error (.indexRange .ch (s.cfg.ibusNch - 1)) := by
  have hadv : ibusAdvance s = (a, { s with ibusAns := rest }) := by simp [ibusAdvance, hans]
  rw [stepIbus, hadv, ibusCopy, if_neg (by simp [hnew]), if_neg (by show ¬ s.cfg.ibusNch ≤ 16; omega)]

/-- Settles O50: one lemma for the four byte operations, and one for each other index. -/
theorem indexPastArrayFaults : Obligations.IndexPastArrayFaults := by
  intro b now w tms bits s gap
  refine ⟨fun h64 => ⟨?_, ?_, ?_, ?_⟩, fun hlen => ?_, fun hpw => ?_, fun hfc hmissed hlos hlat => ?_,
    fun a rest hans hnew hch => ?_⟩
  · exact policyByte_fault_of_ge (x := .sbus) h64
  · exact policyByte_fault_of_ge (x := .crsf) h64
  · intro hgap
    have hto : policyByteTo s.cfg (dsmPolicy bits) = s.cfg.dsmByteTo := by cases bits <;> rfl
    show ranVerdict (dsmByte b now bits s) = _
    rw [dsmByte_eq]
    exact policyByte_fault_of_ge h64 (hto.symm ▸ hgap)
  · exact policyByte_fault_of_ge (x := .fport) h64
  · exact congrArg ranVerdict (crsfFrame_of_ge hlen)
  · exact congrArg ran (edgeSyncAcc_of_gt hpw)
  · exact congrArg ran (stepPpm_of_gt hfc hmissed hlos hlat)
  · exact congrArg ran (stepIbus_of_gt hans hnew hch)

end Sys2Proof.Machine
end

section
/-! What the main context's decoders neither read nor write (20_memory.md R49): a rewriting of the state that touches
only that commutes with their operations. -/

namespace Sys2Proof.Machine

/-- An outcome is mapped branch by branch. -/
theorem map_if {α β : Type} (g : α → β) (c : Prop) [Decidable c] (r r' : Except Fault α) :
    g <$> (if c then r else r') = if c then g <$> r else g <$> r' := apply_ite _ c r r'

/-- R78: the oldest answer announced is the one given. -/
theorem ibusAdvance_cons {a : IbusAnswer} {rest : List IbusAnswer} {s : State} (h : s.ibusAns = a :: rest) :
    ibusAdvance s = (a, { s with ibusAns := rest }) := by
  simp only [ibusAdvance, h]

/-- With no answer announced the free value is given (log entry 2). -/
theorem ibusAdvance_nil {s : State} (h : s.ibusAns = []) :
    ibusAdvance s = (Config.ibusAnswer s.ibusCalls, { s with ibusCalls := s.ibusCalls + 1 }) := by
  simp only [ibusAdvance, h]

/-- `f` rewrites only what the byte-stream decoders and the IBUS adapter neither read nor write: no field they read
changes, and each of their updates commutes with `f`. -/
structure DecodersIgnore (f : State → State) : Prop where
  cfg (s : State) : (f s).cfg = s.cfg
  ch (s : State) : (f s).ch = s.ch
  buf (s : State) : (f s).buf = s.buf
  idx (s : State) : (f s).idx = s.idx
  expLen (s : State) : (f s).expLen = s.expLen
  lastByteMs (s : State) : (f s).lastByteMs = s.lastByteMs
  lastFrameMs (s : State) : (f s).lastFrameMs = s.lastFrameMs
  rxq (s : State) : (f s).rxq = s.rxq
  ibusAns (s : State) : (f s).ibusAns = s.ibusAns
  ibusCalls (s : State) : (f s).ibusCalls = s.ibusCalls
  raise (s : State) (l : Label) : (f s).raise l = f (s.raise l)
  withOut (s : State) (o : Output) : (f s).withOut o = f (s.withOut o)
  withIdx (s : State) (i : BitVec 7) : (f s).withIdx i = f (s.withIdx i)
  withExpLen (s : State) (n : BitVec 7) : (f s).withExpLen n = f (s.withExpLen n)
  withByteStamp (s : State) (now : Stamp) : (f s).withByteStamp now = f (s.withByteStamp now)
  withFrameStamp (s : State) (now : Stamp) : (f s).withFrameStamp now = f (s.withFrameStamp now)
  withCh (s : State) (ch : Vector Half 16) : (f s).withCh ch = f (s.withCh ch)
  withRxq (s : State) (q : List Byte) : (f s).withRxq q = f (s.withRxq q)
  withByte (s : State) (b : Byte) (h : s.idx.toNat < 64) (h' : (f s).idx.toNat < 64) :
    (f s).withByte b h' = f (s.withByte b h)
  withIbusAns (s : State) (answers : List IbusAnswer) :
    { f s with ibusAns := answers } = f { s with ibusAns := answers }
  withIbusCalls (s : State) (n : Nat) : { f s with ibusCalls := n } = f { s with ibusCalls := n }

namespace DecodersIgnore

variable {f : State → State} (hf : DecodersIgnore f)
include hf

/-! ### The framing primitives and the frame operations -/

theorem slice (s : State) (a b : Nat) : (f s).slice a b = s.slice a b := by
  rw [State.slice, hf.buf, State.slice]

theorem gapCheck_comm (lim : Nat) (now : Stamp) (s : State) : gapCheck lim now (f s) = f (gapCheck lim now s) := by
  simp only [gapCheck, hf.idx, hf.lastByteMs, hf.raise, hf.withIdx, hf.withByteStamp, apply_ite f]

/-- R115: the store goes to the same place, or faults at the same index. -/
theorem storeByte_comm (b : Byte) (s : State) : storeByte b (f s) = f <$> storeByte b s := by
  by_cases h : s.idx.toNat < 64
  · rw [storeByte_of_lt h, storeByte_of_lt (by rwa [hf.idx]), hf.withByte s b h, Except.map_ok]
  · have hge := Nat.le_of_not_lt h
    rw [storeByte_of_ge hge, storeByte_of_ge (by rwa [hf.idx]), hf.idx, Except.map_error]

theorem sbusFrame_comm (now : Stamp) (s : State) : sbusFrame now (f s) = Prod.map f id (sbusFrame now s) := by
  simp only [sbusFrame, hf.buf, hf.cfg, hf.raise, hf.withCh, hf.withFrameStamp, apply_ite (Prod.map f id),
    Prod.map_apply, id_eq]

theorem fportFrame_comm (now : Stamp) (s : State) : fportFrame now (f s) = Prod.map f id (fportFrame now s) := by
  simp only [fportFrame, hf.buf, hf.cfg, hf.slice, hf.raise, hf.withCh, hf.withFrameStamp, apply_ite (Prod.map f id),
    Prod.map_apply, id_eq]

theorem dsmFrame_comm (now : Stamp) (bits : Width) (s : State) :
    dsmFrame now bits (f s) = Prod.map f id (dsmFrame now bits s) := by
  simp only [dsmFrame, hf.buf, hf.ch, hf.withCh, hf.withFrameStamp, Prod.map_apply, id_eq]

theorem crsfFrame_comm (now : Stamp) (s : State) :
    crsfFrame now (f s) = Prod.map f id <$> crsfFrame now s := by
  by_cases h : s.buf[1].toNat + 1 < 64
  · simp only [crsfFrame, hf.buf, hf.cfg, hf.slice, hf.raise, hf.withCh, hf.withFrameStamp, h, dite_true,
      map_if, Except.map_ok, Prod.map_apply, id_eq]
  · have h' : 63 ≤ (f s).buf[1].toNat := by rw [hf.buf]; omega
    rw [crsfFrame_of_ge h', crsfFrame_of_ge (s := s) (by omega), hf.buf, Except.map_error]

/-! ### One byte: the store faults on both sides or on neither -/

theorem sbusByte_comm (b : Byte) (now : Stamp) (s : State) :
    sbusByte b now (f s) = Prod.map f id <$> sbusByte b now s := by
  simp only [sbusByte, hf.cfg, hf.gapCheck_comm, hf.idx, hf.raise, hf.storeByte_comm, map_if]
  cases storeByte b (gapCheck s.cfg.sbusByteTo now s) with
  | error e => rfl
  | ok u => simp only [Except.map_ok, hf.idx, hf.withIdx, hf.sbusFrame_comm, map_if, Prod.map_apply, id_eq]

theorem dsmByte_comm (b : Byte) (now : Stamp) (bits : Width) (s : State) :
    dsmByte b now bits (f s) = Prod.map f id <$> dsmByte b now bits s := by
  simp only [dsmByte, hf.cfg, hf.gapCheck_comm, hf.storeByte_comm]
  cases storeByte b (gapCheck s.cfg.dsmByteTo now s) with
  | error e => rfl
  | ok u => simp only [Except.map_ok, hf.idx, hf.withIdx, hf.dsmFrame_comm, map_if, Prod.map_apply, id_eq]

theorem fportByte_comm (b : Byte) (now : Stamp) (s : State) :
    fportByte b now (f s) = Prod.map f id <$> fportByte b now s := by
  simp only [fportByte, hf.cfg, hf.gapCheck_comm, hf.idx, hf.raise, hf.withIdx, hf.storeByte_comm, map_if]
  cases storeByte b (gapCheck s.cfg.fportByteTo now s) with
  | error e => rfl
  | ok u =>
    simp only [Except.map_ok, hf.idx, hf.withIdx, hf.withExpLen, hf.fportFrame_comm, map_if, Prod.map_apply, id_eq]

theorem crsfByte_comm (b : Byte) (now : Stamp) (s : State) :
    crsfByte b now (f s) = Prod.map f id <$> crsfByte b now s := by
  simp only [crsfByte, hf.cfg, hf.gapCheck_comm, hf.idx, hf.raise, hf.withIdx, hf.storeByte_comm, map_if]
  cases storeByte b (gapCheck s.cfg.crsfByteTo now s) with
  | error e => rfl
  | ok u =>
    simp only [Except.map_ok, hf.idx, hf.expLen, hf.withIdx, hf.withExpLen, hf.crsfFrame_comm, map_if, Prod.map_apply,
      id_eq]

theorem policyByte_comm (x : Policy) (now : Stamp) (b : Byte) (s : State) :
    policyByte x now b (f s) = Prod.map f id <$> policyByte x now b s := by
  cases x with
  | sbus => exact hf.sbusByte_comm b now s
  | crsf => exact hf.crsfByte_comm b now s
  | dsm2 => exact hf.dsmByte_comm b now .ten s
  | dsmx => exact hf.dsmByte_comm b now .eleven s
  | fport => exact hf.fportByte_comm b now s

/-! ### The STEPs -/

theorem drain_comm {op : Byte → State → Except Fault (State × Verdict)}
    (hop : ∀ b s, op b (f s) = Prod.map f id <$> op b s) (q : List Byte) (s : State) :
    drain op q (f s) = Prod.map f id <$> drain op q s := by
  induction q generalizing s with
  | nil => rw [drain_nil, drain_nil, hf.withRxq, Except.map_ok, Prod.map_apply, id]
  | cons b q ih =>
    simp only [drain, hf.withRxq, hop]
    cases op b (s.withRxq q) with
    | error e => rfl
    | ok p =>
      simp only [Except.map_ok, Prod.map, id_eq, ih]
      split <;> rfl

theorem byteStreamStep_comm {op : Byte → State → Except Fault (State × Verdict)}
    (hop : ∀ b s, op b (f s) = Prod.map f id <$> op b s) (lim : Nat) (now : Stamp) (s : State) :
    byteStreamStep op lim now (f s) = f <$> byteStreamStep op lim now s := by
  simp only [byteStreamStep, hf.rxq, hf.drain_comm hop]
  cases drain op s.rxq s with
  | error e => rfl
  | ok p =>
    obtain ⟨t, accepted⟩ := p
    cases accepted with
    | true => exact congrArg Except.ok (hf.withOut t _)
    | false => simp only [Except.map_ok, Prod.map_apply, id_eq, hf.lastFrameMs, hf.raise, ← apply_ite f, hf.withOut]

theorem policyStep_comm (x : Policy) (now : Stamp) (s : State) :
    policyStep x now (f s) = f <$> policyStep x now s := by
  rw [policyStep, hf.cfg]
  exact hf.byteStreamStep_comm (fun b t => hf.policyByte_comm x now b t) _ now s

theorem ibusAdvance_comm (s : State) : ibusAdvance (f s) = Prod.map id f (ibusAdvance s) := by
  cases hans : s.ibusAns with
  | nil =>
    rw [ibusAdvance_nil hans, ibusAdvance_nil (by rw [hf.ibusAns, hans]), hf.ibusCalls]
    exact congrArg (Prod.mk _) (hf.withIbusCalls s _)
  | cons a rest =>
    rw [ibusAdvance_cons hans, ibusAdvance_cons (by rw [hf.ibusAns, hans])]
    exact congrArg (Prod.mk a) (hf.withIbusAns s rest)

theorem ibusCopy_comm (a : IbusAnswer) (s : State) : ibusCopy a (f s) = f <$> ibusCopy a s := by
  simp only [ibusCopy, hf.cfg, hf.ch, hf.withCh, hf.withOut, map_if, Except.map_ok, Except.map_error]

theorem stepIbus_comm (s : State) : stepIbus (f s) = f <$> stepIbus s := by
  rw [stepIbus, hf.ibusAdvance_comm, Prod.map_fst, Prod.map_snd, hf.ibusCopy_comm]
  rfl

end DecodersIgnore

/-- The state with the capture state of another in place of its own (R18 to R25). -/
def State.withCaptureOf (c s : State) : State :=
  { s with
    lastEdgeUs := c.lastEdgeUs, pw := c.pw, ppmIdx := c.ppmIdx, lat := c.lat, latN := c.latN, fc := c.fc
    missed := c.missed, ppmLastFrameMs := c.ppmLastFrameMs }

/-- No decoder of the main context but the PPM poll touches the capture state (R49). -/
theorem withCaptureOf_decodersIgnore (c : State) : DecodersIgnore (State.withCaptureOf c) := by
  constructor <;> intros <;> rfl

/-- An operation that commutes with `f` answers the rewritten next state from the rewritten state. -/
theorem ran_map_of_next {r r' : Except Fault State} {f : State → State} {t : State} (hr : r' = f <$> r)
    (h : ran r = .next t) : ran r' = .next (f t) := by
  rw [hr, ran_next_iff.mp h]
  rfl

/-- Settles O58: each of the six STEPs commutes with putting another capture state in place. -/
theorem byteStreamStepsIgnoreCaptureState : Obligations.ByteStreamStepsIgnoreCaptureState := by
  intro now s t c swap i hi h
  have hc := withCaptureOf_decodersIgnore c
  simp only [List.mem_cons, List.not_mem_nil, or_false] at hi
  rcases hi with rfl | rfl | rfl | rfl | rfl | rfl
  · exact ran_map_of_next (hc.policyStep_comm .sbus now s) h
  · exact ran_map_of_next (hc.policyStep_comm .crsf now s) h
  · exact ran_map_of_next (hc.policyStep_comm .dsm2 now s) h
  · exact ran_map_of_next (hc.policyStep_comm .dsmx now s) h
  · exact ran_map_of_next (hc.policyStep_comm .fport now s) h
  · exact ran_map_of_next (hc.stepIbus_comm s) h

end Sys2Proof.Machine
end

section
/-! The RX queue (20_memory.md R44): RXPUSH is its producer, and only the byte-stream STEPs pop it. -/

namespace Sys2Proof.Machine

theorem exec_rxpush (b : Byte) (s : State) : exec (.rxpush b) s = .next (s.withRxq (s.rxq ++ [b])) := rfl

/-- Settles O11: the updated state is RXPUSH's, written out. -/
theorem rxpushAppends : Obligations.RxpushAppends := exec_rxpush

theorem stepPpm_rxq {now : Stamp} {s t : State} (h : stepPpm now s = .ok t) : t.rxq = s.rxq := by
  obtain ⟨ch, fc, out, log, -, -, rfl⟩ := stepPpm_ok h
  rfl

theorem stepIbus_rxq {s t : State} (h : stepIbus s = .ok t) : t.rxq = s.rxq := by
  obtain ⟨ch, out, answers, calls, -, rfl⟩ := stepIbus_ok h
  rfl

/-- The dispatcher pops the queue only where it invokes the STEP of a policy. -/
theorem stepDispatch_rxq {t : Nat} {s u : State} (hx : ∀ x, s.cfg.proto s.psel ≠ policyProtocol x)
    (h : stepDispatch t s = .ok u) : u.rxq = s.rxq := by
  rcases stepDispatch_ok_cases h with ⟨-, h⟩ | ⟨-, h⟩ | ⟨x, hp, -⟩ | ⟨-, rfl⟩
  · exact stepPpm_rxq h
  · exact stepIbus_rxq h
  · exact absurd hp (hx x)
  · rfl

/-- PPM, IBUS and the reserved code have no byte-stream policy. -/
theorem ne_policyProtocol {p : Protocol} (h : p = .ppm ∨ p = .ibus ∨ p = .rsvd) (x : Policy) :
    p ≠ policyProtocol x := by
  rcases h with rfl | rfl | rfl <;> cases x <;> decide

/-- Settles O12: under these selections the dispatcher invokes an arm that leaves the queue alone. -/
theorem queueNotPoppedWhenDormant : Obligations.QueueNotPoppedWhenDormant := by
  intro t now s u
  refine ⟨fun hp h => ?_, fun h => stepPpm_rxq (ran_next_iff.mp h), fun h => stepIbus_rxq (ran_next_iff.mp h),
    fun h => ?_⟩
  · exact stepDispatch_rxq (s := s.withTime t) (ne_policyProtocol hp) (ran_next_iff.mp h)
  · cases h
    rfl

end Sys2Proof.Machine
end

section
/-! The record decoder (30_encoding.md R61; log entry 8): what each operand reader takes off the front of a record, and
that the decoder reads exactly what the encoder writes. `_ok` says what a reader has read, `_append` and `_cons` that it
reads back what was written; `takeField`, `takeNat` and `takeStamp` have part of theirs in Laws/Bytes. -/

namespace Sys2Proof

/-! ### The operand readers -/

/-- A field read into the bit vector of its width loses nothing. -/
theorem takeField_bits_ok {m : String} {n v w : Nat} {bs r : List Byte} (hw : 256 ^ n = 2 ^ w)
    (h : takeField m n bs = .ok (v, r)) : bs = leBytes n (BitVec.ofNat w v).toNat ++ r := by
  obtain ⟨hbs, hv⟩ := takeField_ok h
  rw [BitVec.toNat_ofNat, Nat.mod_eq_of_lt (hw ▸ hv), hbs]

theorem takeStamp_ok {m : String} {now : Stamp} {bs r : List Byte} (h : takeStamp m bs = .ok (now, r)) :
    bs = leBytes 4 now.toNat ++ r := by
  unfold takeStamp at h
  split at h
  · cases h
  · rename_i v q hq
    cases h
    exact takeField_bits_ok (by decide) hq

theorem takeByte_ok {m : String} {b : Byte} {bs r : List Byte} (h : takeByte m bs = .ok (b, r)) : bs = b :: r := by
  cases bs with
  | nil => cases h
  | cons b' bs => cases h; rfl

theorem takeByte_cons {m : String} (b : Byte) (r : List Byte) : takeByte m (b :: r) = .ok (b, r) := rfl

theorem takeWidth_ok {m : String} {bits : Width} {bs r : List Byte} (h : takeWidth m bs = .ok (bits, r)) :
    bs = bits.byte :: r := by
  unfold takeWidth at h
  split at h
  · cases h
  rename_i b q hb
  obtain rfl := takeByte_ok hb
  split_ifs at h with h10 h11
  · cases h; rw [h10]; rfl
  · cases h; rw [h11]; rfl

theorem takeWidth_cons {m : String} (bits : Width) (r : List Byte) : takeWidth m (bits.byte :: r) = .ok (bits, r) := by
  cases bits <;> rfl

theorem takePolicy_ok {m : String} {x : Policy} {bs r : List Byte} (h : takePolicy m bs = .ok (x, r)) :
    bs = x.byte :: r := by
  unfold takePolicy at h
  split at h
  · cases h
  rename_i b q hb
  obtain rfl := takeByte_ok hb
  split_ifs at h with hx hx hx hx hx <;> cases h <;> rw [hx] <;> rfl

theorem takePolicy_cons {m : String} (x : Policy) (r : List Byte) : takePolicy m (x.byte :: r) = .ok (x, r) := by
  cases x <;> rfl

theorem takePayload_ok {m : String} {p : Vector Byte 22} {bs r : List Byte} (h : takePayload m bs = .ok (p, r)) :
    bs = p.toList ++ r := by
  unfold takePayload at h
  split at h
  · cases h
    exact (List.take_append_drop 22 bs).symm
  · cases h

theorem takePayload_append {m : String} (p : Vector Byte 22) (r : List Byte) :
    takePayload m (p.toList ++ r) = .ok (p, r) := by
  have ht : (p.toList ++ r).take 22 = p.toList := List.take_left' p.length_toList
  have hd : (p.toList ++ r).drop 22 = r := List.drop_left' p.length_toList
  have hv : Vector.mk p.toList.toArray (by simp) = p := Vector.toList_inj.mp rfl
  simp only [takePayload, ht, hd, Vector.length_toList, dif_pos, hv]

/-! ### The record forms that several operations share -/

theorem stampRecord_ok {m : String} {mk : Stamp → Instr} {i : Instr} {bs r : List Byte}
    (h : stampRecord m mk bs = .ok (i, r)) : ∃ now, i = mk now ∧ bs = leBytes 4 now.toNat ++ r := by
  unfold stampRecord at h
  split at h
  · cases h
  · rename_i now q hq
    cases h
    exact ⟨now, rfl, takeStamp_ok hq⟩

theorem stampRecord_append {m : String} {mk : Stamp → Instr} (now : Stamp) (r : List Byte) :
    stampRecord m mk (leBytes 4 now.toNat ++ r) = .ok (mk now, r) := by
  rw [stampRecord, takeStamp_append]

/-- A bounded operand whose bound is that of a bit field, in a field wide enough for it. -/
theorem boundedRecord_ok {m : String} {w n bound : Nat} {mk : BitVec w → Instr} {i : Instr} {bs r : List Byte}
    (hb : bound = 2 ^ w) (h : boundedRecord m n bound (fun v => mk (BitVec.ofNat w v)) bs = .ok (i, r)) :
    ∃ x : BitVec w, i = mk x ∧ bs = leBytes n x.toNat ++ r := by
  unfold boundedRecord takeBounded at h
  split at h
  · cases h
  rename_i v q hv
  split at hv
  · cases hv
  rename_i u q' hu
  split_ifs at hv with hlt
  cases hv
  cases h
  refine ⟨BitVec.ofNat w v, rfl, ?_⟩
  rw [BitVec.toNat_ofNat, Nat.mod_eq_of_lt (hb ▸ hlt)]
  exact (takeField_ok hu).1

theorem boundedRecord_append {m : String} {w n bound : Nat} {mk : BitVec w → Instr} (hb : bound = 2 ^ w)
    (hw : bound ≤ 256 ^ n) (x : BitVec w) (r : List Byte) :
    boundedRecord m n bound (fun v => mk (BitVec.ofNat w v)) (leBytes n x.toNat ++ r) = .ok (mk x, r) := by
  have hx : x.toNat < bound := hb ▸ x.isLt
  rw [boundedRecord, takeBounded_append r (Nat.lt_of_lt_of_le hx hw) hx]
  simp

/-! ### The decoder reads back what the encoder writes -/

theorem decodeOperands_encode (i : Instr) (r : List Byte) : decodeOperands i.code (i.operandBytes ++ r) = .ok (i, r) := by
  cases i with
  | stepIbus | stepRsvd | rxpush b => rfl
  | stepPpm now | stepSbus now | stepCrsf now | stepDsm2 now | stepDsmx now | stepFport now | edgeNoise now
  | edgeSyncRej now | edgeChan now | edgeGap now | sbusFrame now | crsfFrame now | fportFrame now =>
    simp [decodeOperands, Instr.code, Instr.operandBytes, stampRecord_append]
  | sbusByte b now | crsfByte b now | fportByte b now =>
    simp [decodeOperands, Instr.code, Instr.operandBytes, byteStampRecord, takeByte_cons, stampRecord_append]
  | reset x | normS11 x | normU11 x | normU10 x | normPpm x | normIbus x =>
    exact boundedRecord_append rfl (by decide) x r
  | step t | edge t => simp [decodeOperands, Instr.code, Instr.operandBytes, timeRecord, takeNat_append]
  | edgeSyncAcc w tms =>
    simp [decodeOperands, Instr.code, Instr.operandBytes, takeStamp_append, stampRecord_append]
  | framerStep x now =>
    simp [decodeOperands, Instr.code, Instr.operandBytes, takePolicy_cons, stampRecord_append]
  | dsmByte b now bits =>
    simp [decodeOperands, Instr.code, Instr.operandBytes, takeByte_cons, takeStamp_append, takeWidth_cons]
  | dsmFrame now bits => simp [decodeOperands, Instr.code, Instr.operandBytes, takeStamp_append, takeWidth_cons]
  | dsmPair v bits =>
    have hv : v.toNat < 256 ^ 2 := v.isLt
    simp [decodeOperands, Instr.code, Instr.operandBytes, takeField_append _ hv, takeWidth_cons]
  | unpack11le p k =>
    simp [decodeOperands, Instr.code, Instr.operandBytes, takePayload_append, boundedRecord_append]
  | scale raw lo hi => simp [decodeOperands, Instr.code, Instr.operandBytes, takeNat_append]

/-! ### What the decoder has read is what the encoder writes -/

/-- The code byte of an arm of the decoder, whose match is on the byte's value. -/
theorem eq_ofNat_of_toNat {c : Byte} {n : Nat} (h : c.toNat = n) : c = BitVec.ofNat 8 n := by
  rw [← h, BitVec.ofNat_toNat, BitVec.setWidth_eq]

theorem encode_of_stampRecord {m : String} {mk : Stamp → Instr} {i : Instr} {bs r : List Byte} {c : Byte} {n : Nat}
    (hc : c.toNat = n) (h : stampRecord m mk bs = .ok (i, r))
    (hmk : ∀ now, encode (mk now) = BitVec.ofNat 8 n :: leBytes 4 now.toNat) : c :: bs = encode i ++ r := by
  obtain ⟨now, rfl, rfl⟩ := stampRecord_ok h
  rw [hmk, eq_ofNat_of_toNat hc, List.cons_append]

theorem encode_of_byteStampRecord {m : String} {mk : Byte → Stamp → Instr} {i : Instr} {bs r : List Byte} {c : Byte}
    {n : Nat} (hc : c.toNat = n) (h : byteStampRecord m mk bs = .ok (i, r))
    (hmk : ∀ b now, encode (mk b now) = BitVec.ofNat 8 n :: b :: leBytes 4 now.toNat) : c :: bs = encode i ++ r := by
  unfold byteStampRecord at h
  split at h
  · cases h
  rename_i b q hb
  obtain ⟨now, rfl, rfl⟩ := stampRecord_ok h
  rw [hmk, eq_ofNat_of_toNat hc, takeByte_ok hb, List.cons_append, List.cons_append]

theorem encode_of_timeRecord {m : String} {mk : Nat → Instr} {i : Instr} {bs r : List Byte} {c : Byte} {n : Nat}
    (hc : c.toNat = n) (h : timeRecord m mk bs = .ok (i, r))
    (hmk : ∀ t, encode (mk t) = BitVec.ofNat 8 n :: natBytes t) : c :: bs = encode i ++ r := by
  unfold timeRecord at h
  split at h
  · cases h
  rename_i t q ht
  cases h
  rw [hmk, eq_ofNat_of_toNat hc, takeNat_ok ht, List.cons_append]

theorem encode_of_boundedRecord {m : String} {w k bound : Nat} {mk : BitVec w → Instr} {i : Instr} {bs r : List Byte}
    {c : Byte} {n : Nat} (hc : c.toNat = n)
    (h : boundedRecord m k bound (fun v => mk (BitVec.ofNat w v)) bs = .ok (i, r)) (hb : bound = 2 ^ w)
    (hmk : ∀ x, encode (mk x) = BitVec.ofNat 8 n :: leBytes k x.toNat) : c :: bs = encode i ++ r := by
  obtain ⟨x, rfl, rfl⟩ := boundedRecord_ok hb h
  rw [hmk, eq_ofNat_of_toNat hc, List.cons_append]

/-- The arms of the decoder in the order of their code bytes: each has read the code and the operands of its operation,
and nothing more. -/
theorem encode_of_decodeOperands {c : Byte} {bs r : List Byte} {i : Instr} (h : decodeOperands c bs = .ok (i, r)) :
    c :: bs = encode i ++ r := by
  unfold decodeOperands at h
  split at h
  next hc => exact encode_of_stampRecord hc h fun _ => rfl
  next hc => cases h; rw [eq_ofNat_of_toNat hc]; rfl
  next hc => exact encode_of_stampRecord hc h fun _ => rfl
  next hc => exact encode_of_stampRecord hc h fun _ => rfl
  next hc => exact encode_of_stampRecord hc h fun _ => rfl
  next hc => exact encode_of_stampRecord hc h fun _ => rfl
  next hc => exact encode_of_stampRecord hc h fun _ => rfl
  next hc => cases h; rw [eq_ofNat_of_toNat hc]; rfl
  next hc => exact encode_of_boundedRecord (mk := .reset) hc h rfl fun _ => rfl
  next hc =>
    split at h
    · cases h
    rename_i b q hb
    cases h
    rw [eq_ofNat_of_toNat hc, takeByte_ok hb]
    rfl
  next hc => exact encode_of_timeRecord hc h fun _ => rfl
  next hc => exact encode_of_timeRecord hc h fun _ => rfl
  next hc => exact encode_of_stampRecord hc h fun _ => rfl
  next hc =>
    split at h
    · cases h
    rename_i w q hw
    obtain ⟨tms, rfl, rfl⟩ := stampRecord_ok h
    rw [eq_ofNat_of_toNat hc, takeStamp_ok hw, ← List.append_assoc]
    rfl
  next hc => exact encode_of_stampRecord hc h fun _ => rfl
  next hc => exact encode_of_stampRecord hc h fun _ => rfl
  next hc => exact encode_of_stampRecord hc h fun _ => rfl
  next hc =>
    split at h
    · cases h
    rename_i x q hx
    obtain ⟨now, rfl, rfl⟩ := stampRecord_ok h
    rw [eq_ofNat_of_toNat hc, takePolicy_ok hx]
    rfl
  next hc => exact encode_of_byteStampRecord hc h fun _ _ => rfl
  next hc => exact encode_of_stampRecord hc h fun _ => rfl
  next hc => exact encode_of_byteStampRecord hc h fun _ _ => rfl
  next hc => exact encode_of_stampRecord hc h fun _ => rfl
  next hc =>
    split at h
    · cases h
    rename_i b q hb
    split at h
    · cases h
    rename_i now q' hnow
    split at h
    · cases h
    rename_i bits q'' hbits
    cases h
    rw [eq_ofNat_of_toNat hc, takeByte_ok hb, takeStamp_ok hnow, takeWidth_ok hbits]
    simp [encode, Instr.code, Instr.operandBytes]
  next hc =>
    split at h
    · cases h
    rename_i now q hnow
    split at h
    · cases h
    rename_i bits q' hbits
    cases h
    rw [eq_ofNat_of_toNat hc, takeStamp_ok hnow, takeWidth_ok hbits]
    simp [encode, Instr.code, Instr.operandBytes]
  next hc =>
    split at h
    · cases h
    rename_i v q hv
    split at h
    · cases h
    rename_i bits q' hbits
    cases h
    rw [eq_ofNat_of_toNat hc, takeField_bits_ok (w := 16) (by decide) hv, takeWidth_ok hbits]
    simp [encode, Instr.code, Instr.operandBytes]
  next hc => exact encode_of_byteStampRecord hc h fun _ _ => rfl
  next hc => exact encode_of_stampRecord hc h fun _ => rfl
  next hc =>
    split at h
    · cases h
    rename_i p q hp
    obtain ⟨k, rfl, rfl⟩ := boundedRecord_ok (mk := .unpack11le p) rfl h
    rw [eq_ofNat_of_toNat hc, takePayload_ok hp, ← List.append_assoc]
    rfl
  next hc =>
    split at h
    · cases h
    rename_i raw q hraw
    split at h
    · cases h
    rename_i lo q' hlo
    split at h
    · cases h
    rename_i hi q'' hhi
    cases h
    rw [eq_ofNat_of_toNat hc, takeNat_ok hraw, takeNat_ok hlo, takeNat_ok hhi]
    simp [encode, Instr.code, Instr.operandBytes]
  next hc => exact encode_of_boundedRecord (mk := .normS11) hc h rfl fun _ => rfl
  next hc => exact encode_of_boundedRecord (mk := .normU11) hc h rfl fun _ => rfl
  next hc => exact encode_of_boundedRecord (mk := .normU10) hc h rfl fun _ => rfl
  next hc => exact encode_of_boundedRecord (mk := .normPpm) hc h rfl fun _ => rfl
  next hc => exact encode_of_boundedRecord (mk := .normIbus) hc h rfl fun _ => rfl
  next => cases h

/-! ### Records -/

/-- The bytes that decode to an operation are its record and whatever follows it: the one fact of both round trips. -/
theorem decode_ok_iff {bs r : List Byte} {i : Instr} : decode bs = .ok (i, r) ↔ bs = encode i ++ r := by
  constructor
  · intro h
    cases bs with
    | nil => cases h
    | cons c bs => exact encode_of_decodeOperands h
  · rintro rfl
    exact decodeOperands_encode i r

theorem decodeRecord_ok_iff {bs : List Byte} {i : Instr} : decodeRecord bs = .ok i ↔ bs = encode i := by
  have hrec : decodeRecord bs = .ok i ↔ decode bs = .ok (i, []) := by
    unfold decodeRecord
    split <;> rename_i hd <;> simp [hd]
  rw [hrec, decode_ok_iff, List.append_nil]

/-- The operand types give every range that the rules give. -/
theorem Instr.wellFormed_eq_true (i : Instr) : i.wellFormed = true := by
  cases i <;> rfl

/-- Settles O1, from the record's bytes to the operation. -/
theorem decodeInvertsEncode : Obligations.DecodeInvertsEncode := fun _ _ _ =>
  ⟨decode_ok_iff.mpr rfl, decodeRecord_ok_iff.mpr rfl⟩

/-- Settles O2, from the operation back to the record's bytes. -/
theorem encodeInvertsDecode : Obligations.EncodeInvertsDecode := fun _ i h =>
  ⟨i.wellFormed_eq_true, (decodeRecord_ok_iff.mp h).symm⟩

/-- A table word below 128 bits is read as the operation whose record its bytes and the zeros above them begin with. -/
theorem decodeTableWord_eq_some {nbits w : Nat} {i : Instr} (r : List Byte) (hpos : nbits ≠ 0) (hlt : nbits < 128)
    (h : tableBytes nbits w ++ tablePadding = encode i ++ r) : decodeTableWord nbits w = some i := by
  rw [decodeTableWord, if_neg hpos, if_neg (by omega), decode_ok_iff.mpr h]

/-- A byte-wide table word whose operation takes a stamp has the stamp 0: the zeros above the word. -/
theorem decodeTableWord_code {code : Nat} {i : Instr} (n : Nat)
    (h : BitVec.ofNat 8 code :: tablePadding = encode i ++ List.replicate n 0) : decodeTableWord 8 code = some i :=
  decodeTableWord_eq_some (List.replicate n 0) (by decide) (by decide) h

/-- Settles O3: each word is the front of the record of its operation. -/
theorem tableWordsDecode : Obligations.TableWordsDecode :=
  ⟨decodeTableWord_code 28 (by decide), decodeTableWord_code 32 (by decide), decodeTableWord_code 28 (by decide),
    decodeTableWord_code 28 (by decide), decodeTableWord_code 28 (by decide), decodeTableWord_code 28 (by decide),
    decodeTableWord_code 28 (by decide), decodeTableWord_code 32 (by decide), decodeRecord_ok_iff.mpr (by decide),
    decodeRecord_ok_iff.mpr (by decide)⟩

end Sys2Proof
end

section
/-! One step of the machine (30_encoding.md R61, 20_memory.md R46), the selection of a decoder (R62, R63) and the classes
of a width (R64). -/

namespace Sys2Proof.Machine

theorem step_of_no_record {s : State} (h : s.inbox = []) : step s = .next s := by
  simp [step, State.fetch, h]

theorem step_of_decoded {s : State} {r : List Byte} {rest : List (List Byte)} {i : Instr} (h : s.inbox = r :: rest)
    (hd : decodeRecord r = .ok i) : step s = exec i (s.withInbox rest) := by
  simp [step, State.fetch, h, hd]

theorem step_of_undecodable {s : State} {r : List Byte} {rest : List (List Byte)} {e : DecodeError}
    (h : s.inbox = r :: rest) (hd : decodeRecord r = .error e) : step s = .refused (.undecodable e) := by
  simp [step, State.fetch, h, hd]

/-- Settles O4, by what the inbox holds. -/
theorem stepRunsDecodedRecord : Obligations.StepRunsDecodedRecord := fun _ =>
  ⟨step_of_no_record, fun _ _ _ => step_of_decoded, fun _ _ _ => step_of_undecodable⟩

end Sys2Proof.Machine

namespace Sys2Proof

/-! ### Selection -/

theorem Cfg.proto_of_code {c : Cfg} (hc : c.Legal) :
    c.proto c.pselPpm = .ppm ∧ c.proto c.pselIbus = .ibus ∧ c.proto c.pselSbus = .sbus ∧
    c.proto c.pselCrsf = .crsf ∧ c.proto c.pselDsm2 = .dsm2 ∧ c.proto c.pselDsmx = .dsmx ∧
    c.proto c.pselFport = .fport := by
  have hcodes := hc.codesDistinct
  simp only [List.nodup_cons, List.mem_cons, List.not_mem_nil, or_false, not_or] at hcodes
  obtain ⟨ppm, ibus, sbus, crsf, dsm2, dsmx, -⟩ := hcodes
  simp [Cfg.proto, *, eq_comm]

theorem Cfg.proto_of_not_code {c : Cfg} {k : Psel}
    (h : k ∉ [c.pselPpm, c.pselIbus, c.pselSbus, c.pselCrsf, c.pselDsm2, c.pselDsmx, c.pselFport]) :
    c.proto k = .rsvd := by
  simp only [List.mem_cons, List.not_mem_nil, or_false, not_or] at h
  simp [Cfg.proto, h]

/-- Settles O5: the codes of a legal configuration are distinct, and REFCFG is one. -/
theorem selectorCodes : Obligations.SelectorCodes := by
  obtain ⟨ppm, ibus, sbus, crsf, dsm2, dsmx, fport⟩ := Cfg.proto_of_code refcfg_legal
  refine ⟨fun c hc => ?_, ppm, ibus, sbus, crsf, dsm2, dsmx, fport, Cfg.proto_of_not_code (by decide)⟩
  obtain ⟨ppm, ibus, sbus, crsf, dsm2, dsmx, fport⟩ := Cfg.proto_of_code hc
  exact ⟨ppm, ibus, sbus, crsf, dsm2, dsmx, fport, fun _ => Cfg.proto_of_not_code⟩

/-! ### The classes of a width -/

/-- R64's first test: the width is too short or too long for any pulse. -/
abbrev Cfg.NoiseWidth (c : Cfg) (w : Nat) : Prop := w < c.ppmNoiseMin ∨ c.ppmAbsMax < w

/-- R64's second test, with strict bounds. -/
abbrev Cfg.SyncWidth (c : Cfg) (w : Nat) : Prop := c.ppmSyncMin < w ∧ w < c.ppmSyncMax

/-- R64's third test. -/
abbrev Cfg.ChanWidth (c : Cfg) (w : Nat) : Prop := c.ppmChMin ≤ w ∧ w ≤ c.ppmChMax

/-- A class is the first test of R64 that holds. -/
theorem Cfg.classify_iff (c : Cfg) (w : Stamp) :
    (c.classify w = .noise ↔ c.NoiseWidth w.toNat) ∧
    (c.classify w = .sync ↔ ¬c.NoiseWidth w.toNat ∧ c.SyncWidth w.toNat) ∧
    (c.classify w = .chan ↔ ¬c.NoiseWidth w.toNat ∧ ¬c.SyncWidth w.toNat ∧ c.ChanWidth w.toNat) ∧
    (c.classify w = .gap ↔ ¬c.NoiseWidth w.toNat ∧ ¬c.SyncWidth w.toNat ∧ ¬c.ChanWidth w.toNat) := by
  unfold Cfg.classify Cfg.NoiseWidth Cfg.SyncWidth Cfg.ChanWidth
  split_ifs with hn hs hc
  · simp [hn]
  · simp [hn, hs]
  · simp [hn, hs, hc]
  · simp [hn, hs, hc]

/-- No width meets two of the tests of R64, so their order does not matter. -/
theorem Cfg.Legal.widthTests_exclusive {c : Cfg} (hc : c.Legal) (w : Nat) :
    ¬(c.NoiseWidth w ∧ c.SyncWidth w) ∧ ¬(c.NoiseWidth w ∧ c.ChanWidth w) ∧ ¬(c.SyncWidth w ∧ c.ChanWidth w) := by
  have hchan := hc.ppmChannel
  have hsync := hc.ppmSync
  unfold Cfg.NoiseWidth Cfg.SyncWidth Cfg.ChanWidth
  omega

/-- Settles O8; the ranges of REFCFG are its thresholds put into the tests. -/
theorem widthClasses : Obligations.WidthClasses := by
  refine ⟨fun c w => ?_, fun w => ?_⟩
  · obtain ⟨noise, sync, chan, gap⟩ := c.classify_iff w
    exact ⟨noise, sync, chan, gap, fun hc => hc.widthTests_exclusive w.toNat⟩
  · obtain ⟨noise, sync, chan, gap⟩ := refcfg.classify_iff w
    rw [noise, sync, chan, gap]
    simp only [Cfg.NoiseWidth, Cfg.SyncWidth, Cfg.ChanWidth, refcfg]
    omega

end Sys2Proof
end

section
/-! The 11-bit fields (30_encoding.md R67, R75): the bits of a field, its explicit formula, and packing and unpacking. -/

namespace Sys2Proof.Machine

/-! ### The bits of a payload -/

/-- Bit m of the number that a list of bytes stands for is bit m mod 8 of byte m / 8 (R67). -/
theorem testBit_leNat (bs : List Byte) (m : Nat) : (leNat bs).testBit m = (bs.getD (m / 8) 0).getLsbD (m % 8) := by
  induction bs generalizing m with
  | nil => simp [leNat]
  | cons b bs ih =>
    have hsplit : leNat (b :: bs) = 2 ^ 8 * leNat bs + b.toNat := by rw [leNat]; omega
    rw [hsplit, Nat.testBit_two_pow_mul_add _ b.isLt]
    split
    next hm =>
      rw [Nat.div_eq_of_lt hm, Nat.mod_eq_of_lt hm, List.getD_cons_zero]
      rfl
    next hm =>
      have hdiv : m / 8 = (m - 8) / 8 + 1 := by omega
      have hmod : m % 8 = (m - 8) % 8 := by omega
      rw [ih, hdiv, hmod, List.getD_cons_succ]

/-- Bit j of field k is bit 11k+j of the payload (R67). -/
theorem testBit_unpack11le (p : Vector Byte 22) (k : BitVec 4) (j : Nat) :
    (unpack11le p k).toNat.testBit j =
      (decide (j < 11) && (p.toList.getD ((11 * k.toNat + j) / 8) 0).getLsbD ((11 * k.toNat + j) % 8)) := by
  rw [unpack11le, BitVec.toNat_ofNat, Nat.testBit_mod_two_pow, Nat.testBit_shiftRight, testBit_leNat]

/-- Settles O19. -/
theorem unpackReturnsBitSlice : Obligations.UnpackReturnsBitSlice := fun p k _ =>
  ⟨(unpack11le p k).toNat, rfl, (unpack11le p k).isLt, fun j => by simp [testBit_unpack11le]⟩

/-! ### The explicit formulas -/

/-- Field k starts at bit r of byte q: its bits come from that byte and the two behind it. -/
theorem unpack11le_eq_window (p : Vector Byte 22) (k : BitVec 4) {q r : Nat} (hk : 11 * k.toNat = 8 * q + r)
    (hr : r < 8) :
    (unpack11le p k).toNat = ((p.toList.getD q 0).toNat >>> r ||| (p.toList.getD (q + 1) 0).toNat <<< (8 - r) |||
      (p.toList.getD (q + 2) 0).toNat <<< (16 - r)) &&& 0x7FF := by
  apply Nat.eq_of_testBit_eq
  intro j
  rw [show 0x7FF = 2 ^ 11 - 1 from rfl, Nat.and_two_pow_sub_one_eq_mod, Nat.testBit_mod_two_pow, testBit_unpack11le]
  simp only [Nat.testBit_or, Nat.testBit_shiftRight, Nat.testBit_shiftLeft, BitVec.testBit_toNat]
  by_cases hj : j < 11
  · rcases (by omega : r + j < 8 ∨ (8 ≤ r + j ∧ r + j < 16) ∨ (16 ≤ r + j ∧ r + j < 24)) with h | ⟨h, h'⟩ | ⟨h, h'⟩
    · have hdiv : (11 * k.toNat + j) / 8 = q := by omega
      have hmod : (11 * k.toNat + j) % 8 = r + j := by omega
      have h8 : ¬8 - r ≤ j := by omega
      have h16 : ¬16 - r ≤ j := by omega
      simp [hj, hdiv, hmod, h8, h16]
    · have hdiv : (11 * k.toNat + j) / 8 = q + 1 := by omega
      have hmod : (11 * k.toNat + j) % 8 = j - (8 - r) := by omega
      have h8 : 8 - r ≤ j := by omega
      have h16 : ¬16 - r ≤ j := by omega
      simp [hj, hdiv, hmod, h8, h16, BitVec.getLsbD_of_ge _ _ h]
    · have hdiv : (11 * k.toNat + j) / 8 = q + 2 := by omega
      have hmod : (11 * k.toNat + j) % 8 = j - (16 - r) := by omega
      have h0 : 8 ≤ r + j := by omega
      have h8 : 8 ≤ j - (8 - r) := by omega
      have h16 : 16 - r ≤ j := by omega
      simp [hj, hdiv, hmod, h16, BitVec.getLsbD_of_ge _ _ h8, BitVec.getLsbD_of_ge _ _ h0]
  · simp [hj]

theorem payload_getD (p : Vector Byte 22) {i : Nat} (hi : i < 22) : p.toList.getD i 0 = p[i] := by
  simp [hi]

/-- A field that ends in the second byte (R67's formulas of two bytes). -/
theorem unpack11le_two_bytes (p : Vector Byte 22) (k : BitVec 4) (q : Fin 21) (r : Nat)
    (hk : 11 * k.toNat = 8 * q.val + r ∧ r ≤ 5) :
    (unpack11le p k).toNat = (p[q.val].toNat >>> r ||| p[q.val + 1].toNat <<< (8 - r)) &&& 0x7FF := by
  obtain ⟨hk, hr⟩ := hk
  -- the third byte's bits lie above the mask
  have hthird (b : Nat) : b <<< (16 - r) &&& 0x7FF = 0 := by
    rw [show 0x7FF = 2 ^ 11 - 1 from rfl, Nat.and_two_pow_sub_one_eq_mod, Nat.shiftLeft_eq,
      show 16 - r = 11 + (5 - r) by omega, Nat.pow_add, Nat.mul_left_comm, Nat.mul_mod_right]
  rw [unpack11le_eq_window p k hk (by omega), Nat.and_or_distrib_right, hthird, Nat.or_zero,
    payload_getD p (by omega), payload_getD p (by omega)]

/-- A field that ends in the third byte (R67's formulas of three bytes). -/
theorem unpack11le_three_bytes (p : Vector Byte 22) (k : BitVec 4) (q : Fin 20) (r : Nat)
    (hk : 11 * k.toNat = 8 * q.val + r ∧ r < 8) :
    (unpack11le p k).toNat =
      (p[q.val].toNat >>> r ||| p[q.val + 1].toNat <<< (8 - r) ||| p[q.val + 2].toNat <<< (16 - r)) &&& 0x7FF := by
  rw [unpack11le_eq_window p k hk.1 hk.2, payload_getD p (by omega), payload_getD p (by omega),
    payload_getD p (by omega)]

/-- Settles O20: 11k = 8q + r names the byte and the bit each field starts at. -/
theorem unpackExplicitFormulas : Obligations.UnpackExplicitFormulas := fun p =>
  ⟨unpack11le_two_bytes p 0 0 0 (by decide), unpack11le_two_bytes p 1 1 3 (by decide),
    unpack11le_three_bytes p 2 2 6 (by decide), unpack11le_two_bytes p 3 4 1 (by decide),
    unpack11le_two_bytes p 4 5 4 (by decide), unpack11le_three_bytes p 5 6 7 (by decide),
    unpack11le_two_bytes p 6 8 2 (by decide), unpack11le_two_bytes p 7 9 5 (by decide),
    unpack11le_two_bytes p 8 11 0 (by decide), unpack11le_two_bytes p 9 12 3 (by decide),
    unpack11le_three_bytes p 10 13 6 (by decide), unpack11le_two_bytes p 11 15 1 (by decide),
    unpack11le_two_bytes p 12 16 4 (by decide), unpack11le_three_bytes p 13 17 7 (by decide),
    unpack11le_two_bytes p 14 19 2 (by decide), unpack11le_two_bytes p 15 20 5 (by decide)⟩

/-! ### Packing and unpacking -/

theorem packNat_lt (cs : List (BitVec 11)) : packNat cs < 2 ^ (11 * cs.length) := by
  induction cs with
  | nil => simp [packNat]
  | cons c cs ih =>
    have hc : c.toNat < 2048 := c.isLt
    rw [List.length_cons, Nat.mul_succ, Nat.pow_add, packNat]
    omega

/-- Dropping the first field of a packed number drops its 11 low bits. -/
theorem packNat_cons_shiftRight (c : BitVec 11) (cs : List (BitVec 11)) (m : Nat) :
    packNat (c :: cs) >>> (11 + m) = packNat cs >>> m := by
  have hc : c.toNat < 2048 := c.isLt
  rw [Nat.shiftRight_add, packNat, Nat.shiftRight_eq_div_pow _ 11]
  congr 1
  omega

/-- Field k of a packed number is the k-th value. -/
theorem ofNat_packNat_shiftRight (cs : List (BitVec 11)) (k : Nat) (hk : k < cs.length) :
    BitVec.ofNat 11 (packNat cs >>> (11 * k)) = cs[k] := by
  induction cs generalizing k with
  | nil => simp at hk
  | cons c cs ih =>
    cases k with
    | zero =>
      apply BitVec.eq_of_toNat_eq
      have hc : c.toNat < 2048 := c.isLt
      simp only [packNat, Nat.mul_zero, Nat.shiftRight_zero, BitVec.toNat_ofNat, List.getElem_cons_zero]
      omega
    | succ k =>
      rw [Nat.mul_succ, Nat.add_comm, packNat_cons_shiftRight, List.getElem_cons_succ]
      exact ih k (by simpa using hk)

/-- Packing the first n fields of a number gives its 11n low bits back. -/
theorem packNat_ofFn (n v : Nat) :
    packNat (List.ofFn fun k : Fin n => BitVec.ofNat 11 (v >>> (11 * k.val))) = v % 2 ^ (11 * n) := by
  induction n generalizing v with
  | zero => simp [packNat, Nat.mod_one]
  | succ n ih =>
    have htail : (fun k : Fin n => BitVec.ofNat 11 (v >>> (11 * k.succ.val))) =
        fun k : Fin n => BitVec.ofNat 11 ((v >>> 11) >>> (11 * k.val)) := by
      funext k
      rw [← Nat.shiftRight_add, Fin.val_succ, Nat.mul_succ, Nat.add_comm 11]
    rw [List.ofFn_succ, htail, packNat, ih, Nat.mul_succ, Nat.add_comm (11 * n), Nat.pow_add, Nat.mod_mul,
      Nat.shiftRight_eq_div_pow v 11, BitVec.toNat_ofNat]
    rfl

/-- The 22 bytes of a packing are the bytes of the packed number. -/
theorem pack11le_toList (raw : Vector (BitVec 11) 16) : (pack11le raw).toList = leBytes 22 (packNat raw.toList) := by
  apply List.ext_getElem
  · simp
  · intro i hi hi'
    simp [pack11le]

/-- Sixteen fields of 11 bits fill 22 bytes. -/
theorem leNat_pack11le (raw : Vector (BitVec 11) 16) : leNat (pack11le raw).toList = packNat raw.toList := by
  have hlt := packNat_lt raw.toList
  rw [Vector.length_toList] at hlt
  rw [pack11le_toList, leNat_leBytes_of_lt (Nat.lt_of_lt_of_le hlt (by decide))]

theorem unpack11le_pack11le (raw : Vector (BitVec 11) 16) (k : Fin 16) :
    unpack11le (pack11le raw) (BitVec.ofFin k) = raw[k] := by
  rw [unpack11le, leNat_pack11le]
  exact (ofNat_packNat_shiftRight raw.toList k.val (by simp)).trans (by simp)

theorem packNat_unpack11le (p : Vector Byte 22) :
    packNat (Vector.ofFn fun k : Fin 16 => unpack11le p (BitVec.ofFin k)).toList = leNat p.toList := by
  have hlt := leNat_lt p.toList
  rw [Vector.length_toList] at hlt
  rw [Vector.toList_ofFn]
  exact (packNat_ofFn 16 (leNat p.toList)).trans (Nat.mod_eq_of_lt (Nat.lt_of_lt_of_le hlt (by decide)))

theorem pack11le_unpack11le (p : Vector Byte 22) :
    pack11le (Vector.ofFn fun k => unpack11le p (BitVec.ofFin k)) = p := by
  apply Vector.toList_inj.mp
  have hbytes := leBytes_leNat p.toList
  rw [Vector.length_toList] at hbytes
  rw [pack11le_toList, packNat_unpack11le, hbytes]

/-- Settles O21: both ways go through the one 176-bit number. -/
theorem unpackInvertsPack : Obligations.UnpackInvertsPack := ⟨unpack11le_pack11le, pack11le_unpack11le⟩

end Sys2Proof.Machine
end

section
/-! The dispatcher (40_dispatch.md R92, R93): STEP(T) is the arm of the latched selector, and the reserved selection is
inert. -/

namespace Sys2Proof.Machine

theorem exec_step (t : Nat) (s : State) : exec (.step t) s = ran (stepDispatch t (s.withTime t)) := rfl

theorem exec_edge (t : Nat) (s : State) : exec (.edge t) s = ran (edge t (s.withTime t)) := rfl

theorem exec_stepRsvd (s : State) : exec .stepRsvd s = .next (s.withOut (.stepOk false)) := rfl

/-- R92: the arm that the latched selector names, at the millisecond stamp of T. -/
theorem exec_arm (t : Nat) (s : State) :
    exec ((s.cfg.proto s.psel).arm (tMs t)) s = ran (stepDispatch t s) := by
  cases hp : s.cfg.proto s.psel <;> simp only [stepDispatch, hp] <;> rfl

/-- Settles O6: each clause names the arm of its protocol. -/
theorem stepRunsSelectedArm : Obligations.StepRunsSelectedArm := by
  intro t s now s1
  have harm {p : Protocol} (hp : s.cfg.proto s.psel = p) : exec (.step t) s = exec (p.arm now) s1 := by
    subst hp
    exact (exec_step t s).trans (exec_arm t s1).symm
  exact ⟨harm, harm, harm, harm, harm, harm, harm, harm⟩

/-- R166: with any selector but PPM an edge has no effect. -/
theorem edge_of_ne_ppm {s : State} (t : Nat) (h : s.cfg.proto s.psel ≠ .ppm) : edge t s = .ok s := by
  simp [edge, edgeEnabled, h]

/-- Settles O13: the reserved code selects the reserved arm, and it is not PPM's. -/
theorem reservedSelectorIsInert : Obligations.ReservedSelectorIsInert := by
  intro s
  refine ⟨exec_stepRsvd s, fun hp t => ⟨?_, ?_⟩⟩
  · obtain ⟨-, -, -, -, -, -, -, hrsvd⟩ := stepRunsSelectedArm t s
    exact (hrsvd hp).trans (exec_stepRsvd (s.withTime t))
  · have hne : s.cfg.proto s.psel ≠ .ppm := by simp [hp]
    rw [exec_edge, edge_of_ne_ppm (s := s.withTime t) t hne]
    rfl

end Sys2Proof.Machine
end

section
/-! FRAMER.STEP with a policy (42_framing.md R121) takes each byte as the protocol's own X.BYTE does. -/

namespace Sys2Proof.Machine

/-- The frame length in force (R115, R120) in the seven bits of the fill index, which the protocols' own operations
compare it with. -/
def policyLen (s : State) : Policy → BitVec 7
  | .sbus => 25
  | .crsf => s.expLen
  | .dsm2 => 16
  | .dsmx => 16
  | .fport => 29

theorem policyFrameLen_eq (s : State) (x : Policy) : policyFrameLen s x = (policyLen s x).toNat := by
  cases x <;> rfl

/-- R115, R116 for a fill index in the buffer. -/
theorem framerStore_of_lt {x : Policy} {b : Byte} {now : Stamp} {g : State} (h : g.idx.toNat < 64) :
    framerStore x b now g =
      if g.idx + 1 = policyLen g x then policyFrame x now ((g.withByte b h).withIdx 0)
      else .ok (g.withByte b h, .none) := by
  have hlen : policyLen (g.withByte b h) x = policyLen g x := by cases x <;> rfl
  simp only [framerStore, storeByte_of_lt h, State.withByte_idx, policyFrameLen_eq, hlen, BitVec.toNat_inj]

theorem framerStore_incomplete {x : Policy} {b : Byte} {now : Stamp} {g : State} (h : g.idx.toNat < 64)
    (hlen : g.idx + 1 ≠ policyLen g x) : framerStore x b now g = .ok (g.withByte b h, .none) := by
  rw [framerStore_of_lt h, if_neg hlen]

/-- R114, R115: a length byte is stored and sets `exp_len`, in either order. -/
theorem framerStore_length {x : Policy} {b : Byte} {now : Stamp} {g : State} {n : BitVec 7} (h : g.idx.toNat < 64)
    (hlen : g.idx + 1 ≠ policyLen (g.withExpLen n) x) :
    framerStore x b now (g.withExpLen n) = .ok ((g.withByte b h).withExpLen n, .none) :=
  framerStore_incomplete (g := g.withExpLen n) h hlen

/-- FRAMER.STEP stores at an index past the buffer, and so faults there as X.BYTE does. -/
theorem framerByte_of_ge {x : Policy} {now : Stamp} {b : Byte} {s : State}
    (h : 64 ≤ (gapCheck (policyByteTo s.cfg x) now s).idx.toNat) :
    framerByte x b now s = .error (.indexRange .buf (gapCheck (policyByteTo s.cfg x) now s).idx.toNat) := by
  have h0 : (gapCheck (policyByteTo s.cfg x) now s).idx ≠ 0 := fun e => by rw [e] at h; exact absurd h (by decide)
  have h1 : (gapCheck (policyByteTo s.cfg x) now s).idx ≠ 1 := fun e => by rw [e] at h; exact absurd h (by decide)
  simp only [framerByte, h0, h1, false_and, if_false, framerStore, storeByte_of_ge h]

/-- R114 under CRSF: two stored bytes are no whole frame. -/
theorem two_ne_crsfLength {c : Cfg} (hc : c.Legal) {b : Byte} (hb : c.crsfLenMin ≤ b.toNat ∧ b.toNat ≤ c.crsfLenMax) :
    (1 : BitVec 7) + 1 ≠ BitVec.ofNat 7 (b.toNat + 2) := by
  obtain ⟨hmin, -, -, hmax⟩ := hc.crsfLen
  intro e
  have hnat : 2 = (b.toNat + 2) % 128 := congrArg BitVec.toNat e
  omega

theorem gapCheck_expLen (lim : Nat) (now : Stamp) (s : State) : (gapCheck lim now s).expLen = s.expLen := by
  rcases gapCheck_cases lim now s with ⟨-, -, e⟩ | ⟨-, e⟩ <;> rw [e] <;> rfl

/-! The two agree byte by byte, for a fill index in the buffer. -/

section

variable {b : Byte} {now : Stamp} {s : State}

theorem framerByte_sbus (h : (gapCheck s.cfg.sbusByteTo now s).idx.toNat < 64) :
    framerByte .sbus b now s = sbusByte b now s := by
  unfold framerByte sbusByte
  rw [show policyByteTo s.cfg .sbus = s.cfg.sbusByteTo from rfl]
  generalize gapCheck s.cfg.sbusByteTo now s = g at h ⊢
  simp only [policyHeader, policyLengthOk, framerStore_of_lt h, storeByte_of_lt h, Option.any_some, bne_iff_ne,
    ite_self]
  rfl

theorem framerByte_dsm {bits : Width} (h : (gapCheck s.cfg.dsmByteTo now s).idx.toNat < 64) :
    framerByte (dsmPolicy bits) b now s = dsmByte b now bits s := by
  unfold framerByte dsmByte
  rw [show policyByteTo s.cfg (dsmPolicy bits) = s.cfg.dsmByteTo by cases bits <;> rfl]
  generalize gapCheck s.cfg.dsmByteTo now s = g at h ⊢
  have hhdr : policyHeader g.cfg (dsmPolicy bits) = none := by cases bits <;> rfl
  have hrule : policyLengthOk g.cfg (dsmPolicy bits) = none := by cases bits <;> rfl
  simp only [hhdr, hrule, Option.any_none, Bool.false_eq_true, and_false, if_false, framerStore_of_lt h,
    storeByte_of_lt h, ite_self]
  cases bits <;> rfl

theorem framerByte_fport (h : (gapCheck s.cfg.fportByteTo now s).idx.toNat < 64) :
    framerByte .fport b now s = fportByte b now s := by
  unfold framerByte fportByte
  rw [show policyByteTo s.cfg .fport = s.cfg.fportByteTo from rfl]
  generalize gapCheck s.cfg.fportByteTo now s = g at h ⊢
  simp only [policyHeader, policyLengthOk, storeByte_of_lt h]
  by_cases h0 : g.idx = 0
  · have hlen : g.idx + 1 ≠ policyLen g .fport := h0 ▸ (by decide : (0 : BitVec 7) + 1 ≠ 29)
    simp [h0, framerStore_incomplete h hlen]
  by_cases h1 : g.idx = 1
  · have hlen : g.idx + 1 ≠ policyLen (g.withExpLen 29) .fport := h1 ▸ (by decide : (1 : BitVec 7) + 1 ≠ 29)
    by_cases hb : b = g.cfg.fportLenByte
    · simpa [h1, hb, policyLengthOf] using framerStore_length (now := now) h hlen
    · simp [h1, hb]
  · simp only [h0, h1, false_and, if_false, framerStore_of_lt h]
    rfl

theorem framerByte_crsf (hl : s.cfg.Legal) (hexp : s.expLen ≠ 1)
    (h : (gapCheck s.cfg.crsfByteTo now s).idx.toNat < 64) :
    framerByte .crsf b now s = crsfByte b now s := by
  rw [← gapCheck_cfg s.cfg.crsfByteTo now s] at hl
  rw [← gapCheck_expLen s.cfg.crsfByteTo now s] at hexp
  unfold framerByte crsfByte
  rw [show policyByteTo s.cfg .crsf = s.cfg.crsfByteTo from rfl]
  generalize gapCheck s.cfg.crsfByteTo now s = g at h hl hexp ⊢
  simp only [policyHeader, policyLengthOk, storeByte_of_lt h]
  by_cases h0 : g.idx = 0
  · have hlen : g.idx + 1 ≠ policyLen g .crsf := h0 ▸ hexp.symm
    simp [h0, framerStore_incomplete h hlen]
  by_cases h1 : g.idx = 1
  · by_cases hb : g.cfg.crsfLenMin ≤ b.toNat ∧ b.toNat ≤ g.cfg.crsfLenMax
    · have hlen : g.idx + 1 ≠ policyLen (g.withExpLen (BitVec.ofNat 7 (b.toNat + 2))) .crsf :=
        h1 ▸ two_ne_crsfLength hl hb
      have hb' : ¬(b.toNat < g.cfg.crsfLenMin ∨ g.cfg.crsfLenMax < b.toNat) := by omega
      simpa [h1, policyLengthOf, hb, hb'] using framerStore_length (now := now) h hlen
    · have hb' : b.toNat < g.cfg.crsfLenMin ∨ g.cfg.crsfLenMax < b.toNat := by omega
      simp [h1, hb, hb']
  · simp only [h0, h1, false_and, if_false, framerStore_of_lt h]
    rfl

end

/-- What X.BYTE needs to agree with the generic loop body: under CRSF, whose frame length is `exp_len`, no frame is
complete before its length byte is taken. -/
abbrev LengthFirst (x : Policy) (s : State) : Prop := x = .crsf → s.cfg.Legal ∧ s.expLen ≠ 1

/-- R121 agrees with X.BYTE on every byte. -/
theorem framerByte_eq_policyByte {x : Policy} {now : Stamp} {b : Byte} {s : State} (hs : LengthFirst x s) :
    framerByte x b now s = policyByte x now b s := by
  by_cases h64 : (gapCheck (policyByteTo s.cfg x) now s).idx.toNat < 64
  · cases x with
    | sbus => exact framerByte_sbus h64
    | crsf => exact framerByte_crsf (hs rfl).1 (hs rfl).2 h64
    | dsm2 => exact framerByte_dsm (bits := .ten) h64
    | dsmx => exact framerByte_dsm (bits := .eleven) h64
    | fport => exact framerByte_fport h64
  · rw [framerByte_of_ge (Nat.le_of_not_lt h64), policyByte_of_ge (Nat.le_of_not_lt h64)]

theorem ByteEffect.lengthFirst {x : Policy} {now : Stamp} {b : Byte} {g t : State} {v : Verdict}
    (h : ByteEffect x now b g t v) (hg : LengthFirst x g) : LengthFirst x t := by
  cases h with
  | badSync => exact hg
  | badLength => exact hg
  | takeLength ok h64 h1 hrule hb =>
    rintro rfl
    cases hrule
    have hb : g.cfg.crsfLenMin ≤ b.toNat ∧ b.toNat ≤ g.cfg.crsfLenMax := of_decide_eq_true hb
    refine ⟨(hg rfl).1, fun e => ?_⟩
    obtain ⟨hmin, -, -, hmax⟩ := (hg rfl).1.crsfLen
    have hnat : (b.toNat + 2) % 128 = 1 := congrArg BitVec.toNat e
    omega
  | stored => exact hg
  | completed h64 hlen hf => rcases policyFrame_ok_cases hf with ⟨l, rfl⟩ | ⟨ch, -, rfl⟩ <;> exact hg

theorem policyByte_lengthFirst {x : Policy} {now : Stamp} {b : Byte} {s t : State} {v : Verdict}
    (hs : LengthFirst x s) (h : policyByte x now b s = .ok (t, v)) : LengthFirst x t := by
  refine (policyByte_effect h).lengthFirst fun hx => ?_
  rw [gapCheck_cfg, gapCheck_expLen]
  exact hs hx

/-- Two byte operations that agree where a property holds that they keep drain a queue alike. -/
theorem drain_congr {op op' : Byte → State → Except Fault (State × Verdict)} (P : State → Prop)
    (hq : ∀ s q, P s → P (s.withRxq q)) (heq : ∀ b s, P s → op b s = op' b s)
    (hkeep : ∀ b s t v, P s → op' b s = .ok (t, v) → P t) (q : List Byte) (s : State) (hs : P s) :
    drain op q s = drain op' q s := by
  induction q generalizing s with
  | nil => rfl
  | cons b q ih =>
    simp only [drain, heq b _ (hq s q hs)]
    cases hb : op' b (s.withRxq q) with
    | error f => rfl
    | ok p => simp only [ih p.1 (hkeep b _ p.1 p.2 (hq s q hs) hb)]

/-- FRAMER.STEP with a policy is the STEP of its protocol (R121). -/
theorem framerStep_eq_policyStep {x : Policy} {now : Stamp} {s : State} (hs : LengthFirst x s) :
    framerStep x now s = policyStep x now s :=
  byteStreamStep_of_drain_eq (drain_congr (LengthFirst x) (fun _ _ hu => hu)
    (fun _ _ hu => framerByte_eq_policyByte hu) (fun _ _ _ _ hu hb => policyByte_lengthFirst hu hb) s.rxq s hs)

end Sys2Proof.Machine
end

section
/-! What the STEP of a byte-stream decoder does (40_dispatch.md R94, 42_framing.md R111, R116 to R119): it completes
from every good state, and its contract holds of every STEP that completes. -/

namespace Sys2Proof.Machine

/-! ### One byte -/

/-- R116, R117 with the verdict: a rejected frame changes only the event log, an accepted one gives channels and stamps
the frame. -/
theorem policyFrame_verdict_cases {x : Policy} {now : Stamp} {s t : State} {v : Verdict}
    (h : policyFrame x now s = .ok (t, v)) :
    (v = .reject ∧ ∃ l, t = s.raise l) ∨ (v = .accept ∧ ∃ ch, t = (s.withCh ch).withFrameStamp now) := by
  have rejected {l : Label} (e : (s.raise l, Verdict.reject) = (t, v)) : v = .reject ∧ ∃ l, t = s.raise l :=
    ⟨(congrArg Prod.snd e).symm, l, (congrArg Prod.fst e).symm⟩
  have accepted {ch : Vector Half 16} (e : ((s.withCh ch).withFrameStamp now, Verdict.accept) = (t, v)) :
      v = .accept ∧ ∃ ch, t = (s.withCh ch).withFrameStamp now :=
    ⟨(congrArg Prod.snd e).symm, ch, (congrArg Prod.fst e).symm⟩
  cases x with
  | sbus =>
    have h := Except.ok.inj h
    rcases sbusFrame_cases now s with ⟨l, e⟩ | e <;> rw [e] at h
    · exact .inl (rejected h)
    · exact .inr (accepted h)
  | crsf =>
    by_cases hb : s.buf[1].toNat + 1 < 64
    · rcases crsfFrame_cases now s hb with ⟨l, e⟩ | e <;> rw [policyFrame, e] at h
      · exact .inl (rejected (Except.ok.inj h))
      · exact .inr (accepted (Except.ok.inj h))
    · rw [policyFrame, crsfFrame_of_ge (by omega)] at h
      cases h
  | dsm2 => exact .inr (accepted (Except.ok.inj h))
  | dsmx => exact .inr (accepted (Except.ok.inj h))
  | fport =>
    have h := Except.ok.inj h
    rcases fportFrame_cases now s with ⟨l, e⟩ | e <;> rw [e] at h
    · exact .inl (rejected h)
    · exact .inr (accepted h)

/-- R116: the byte that ends a STEP stamps the frame and goes back to sync search. -/
theorem policyByte_accept {x : Policy} {now : Stamp} {b : Byte} {s t : State}
    (h : policyByte x now b s = .ok (t, .accept)) : t.lastFrameMs = now ∧ t.lastByteMs = now ∧ t.idx = 0 := by
  have heff := policyByte_effect h
  have hstamp := gapCheck_lastByteMs (policyByteTo s.cfg x) now s
  generalize gapCheck (policyByteTo s.cfg x) now s = g at heff hstamp
  cases heff with
  | completed h64 hlen hf =>
    rcases policyFrame_verdict_cases hf with ⟨e, -⟩ | ⟨-, ch, rfl⟩
    · cases e
    · exact ⟨rfl, hstamp, rfl⟩

/-- R94: a byte that ends no STEP leaves the channels and the frame stamp alone. -/
theorem policyByte_goes_on {x : Policy} {now : Stamp} {b : Byte} {s t : State} {v : Verdict} (hv : v ≠ .accept)
    (h : policyByte x now b s = .ok (t, v)) : t.ch = s.ch ∧ t.lastFrameMs = s.lastFrameMs := by
  have hgap : (gapCheck (policyByteTo s.cfg x) now s).ch = s.ch ∧
      (gapCheck (policyByteTo s.cfg x) now s).lastFrameMs = s.lastFrameMs := by
    rcases gapCheck_cases (policyByteTo s.cfg x) now s with ⟨-, -, e⟩ | ⟨-, e⟩ <;> rw [e] <;> exact ⟨rfl, rfl⟩
  have heff := policyByte_effect h
  generalize gapCheck (policyByteTo s.cfg x) now s = g at heff hgap
  cases heff with
  | badSync => exact hgap
  | badLength => exact hgap
  | takeLength => exact hgap
  | stored => exact hgap
  | completed h64 hlen hf =>
    rcases policyFrame_verdict_cases hf with ⟨-, l, rfl⟩ | ⟨e, -⟩
    · exact hgap
    · exact absurd e hv

theorem policyByte_rxq {x : Policy} {now : Stamp} {b : Byte} {s t : State} {v : Verdict}
    (h : policyByte x now b s = .ok (t, v)) : t.rxq = s.rxq := by
  cases x with
  | sbus => exact (sbusByte_keepsQueue b now s t v h).1
  | crsf => exact (crsfByte_keepsQueue b now s t v h).1
  | dsm2 => exact (dsmByte_keepsQueue b now .ten s t v h).1
  | dsmx => exact (dsmByte_keepsQueue b now .eleven s t v h).1
  | fport => exact (fportByte_keepsQueue b now s t v h).1

theorem PolicyOk.idx_lt {x : Policy} {s : State} (hl : s.cfg.Legal) (h : PolicyOk x s) : s.idx.toNat < 64 := by
  cases x with
  | sbus => exact Nat.lt_trans h (by decide)
  | crsf =>
    by_cases h2 : 2 ≤ s.idx.toNat
    · obtain ⟨-, hmax, hexp, hlt⟩ := h.2 h2
      obtain ⟨-, -, -, h62⟩ := hl.crsfLen
      omega
    · omega
  | dsm2 => exact Nat.lt_trans h (by decide)
  | dsmx => exact Nat.lt_trans h (by decide)
  | fport => exact Nat.lt_trans h (by decide)

/-- R137 on the frame that a CRSF byte completes: its checksum byte lies in the buffer, so the operation answers. -/
theorem crsfFrame_total {now : Stamp} {s : State} (h : s.buf[1].toNat + 1 < 64) : ∃ p, crsfFrame now s = .ok p := by
  rcases crsfFrame_cases now s h with ⟨l, e⟩ | e
  · exact ⟨_, e⟩
  · exact ⟨_, e⟩

section

variable {b : Byte} {now : Stamp} {s : State}

theorem sbusByte_total (h : (gapCheck s.cfg.sbusByteTo now s).idx.toNat < 64) : ∃ p, sbusByte b now s = .ok p := by
  simp only [sbusByte, storeByte_of_lt h]
  split_ifs <;> exact ⟨_, rfl⟩

theorem dsmByte_total {bits : Width} (h : (gapCheck s.cfg.dsmByteTo now s).idx.toNat < 64) :
    ∃ p, dsmByte b now bits s = .ok p := by
  simp only [dsmByte, storeByte_of_lt h]
  split_ifs <;> exact ⟨_, rfl⟩

theorem fportByte_total (h : (gapCheck s.cfg.fportByteTo now s).idx.toNat < 64) : ∃ p, fportByte b now s = .ok p := by
  simp only [fportByte, storeByte_of_lt h]
  split_ifs <;> exact ⟨_, rfl⟩

/-- The frame that a CRSF byte completes has its checksum byte in the buffer, so CRSF.FRAME answers. -/
theorem crsfByte_total (hl : s.cfg.Legal) (hs : CrsfCoherent s) : ∃ p, crsfByte b now s = .ok p := by
  have hg : CrsfCoherent (gapCheck s.cfg.crsfByteTo now s) := PolicyOk.gapCheck (x := .crsf) hs _ now
  have hlg : (gapCheck s.cfg.crsfByteTo now s).cfg.Legal := (gapCheck_cfg s.cfg.crsfByteTo now s).symm ▸ hl
  have h64 := PolicyOk.idx_lt (x := .crsf) hlg hg
  simp only [crsfByte, storeByte_of_lt h64]
  generalize gapCheck s.cfg.crsfByteTo now s = g at hg hlg h64 ⊢
  by_cases h0 : g.idx = 0
  · simp only [h0, if_true]
    split_ifs <;> exact ⟨_, rfl⟩
  by_cases h1 : g.idx = 1
  · simp only [h1]
    split_ifs <;> exact ⟨_, rfl⟩
  simp only [h0, h1, if_false]
  split_ifs
  · have hne0 : g.idx.toNat ≠ 0 := fun e => h0 (BitVec.eq_of_toNat_eq e)
    have hne1 : g.idx.toNat ≠ 1 := fun e => h1 (BitVec.eq_of_toNat_eq e)
    obtain ⟨-, hmax, -, -⟩ := hg.2 (by omega)
    obtain ⟨-, -, -, h62⟩ := hlg.crsfLen
    refine crsfFrame_total ?_
    rw [State.withIdx_buf, State.withByte_buf, Vector.getElem_set_ne _ _ hne1]
    omega
  · exact ⟨_, rfl⟩

end

/-- What a byte operation needs in order to answer, and keeps: a legal configuration and a fill index below the frame
length in force. -/
structure FillOk (x : Policy) (s : State) : Prop where
  legal : s.cfg.Legal
  policyOk : PolicyOk x s

theorem FillOk.gapCheck {x : Policy} {s : State} (hs : FillOk x s) (lim : Nat) (now : Stamp) :
    FillOk x (gapCheck lim now s) :=
  ⟨(gapCheck_cfg lim now s).symm ▸ hs.legal, hs.policyOk.gapCheck lim now⟩

theorem policyByte_keeps_fillOk {x : Policy} {now : Stamp} {b : Byte} {s t : State} {v : Verdict} (hs : FillOk x s)
    (h : policyByte x now b s = .ok (t, v)) : FillOk x t := by
  have hg := hs.gapCheck (policyByteTo s.cfg x) now
  have hcfg : t.cfg = s.cfg := (sameWiring_iff.mp (policyByte_onlyFramer h).sameWiring).2.1
  exact ⟨hcfg ▸ hs.legal, (policyByte_effect h).policyOk hg.legal hg.policyOk⟩

/-- From a good state every byte operation answers, with a good state. -/
theorem policyByte_total {x : Policy} {s : State} (hs : FillOk x s) (now : Stamp) (b : Byte) :
    ∃ t v, policyByte x now b s = .ok (t, v) ∧ FillOk x t := by
  have hg := hs.gapCheck (policyByteTo s.cfg x) now
  have h64 := hg.policyOk.idx_lt hg.legal
  have htotal : ∃ p, policyByte x now b s = .ok p := by
    cases x with
    | sbus => exact sbusByte_total h64
    | crsf => exact crsfByte_total hs.legal hs.policyOk
    | dsm2 => exact dsmByte_total h64
    | dsmx => exact dsmByte_total h64
    | fport => exact fportByte_total h64
  obtain ⟨⟨t, v⟩, h⟩ := htotal
  exact ⟨t, v, h, policyByte_keeps_fillOk hs h⟩

/-- Under CRSF a good `exp_len` is 0 or at least 4. -/
theorem FillOk.lengthFirst {x : Policy} {s : State} (hs : FillOk x s) : LengthFirst x s := by
  rintro rfl
  refine ⟨hs.legal, fun e => ?_⟩
  obtain ⟨hmin, -⟩ := hs.legal.crsfLen
  have hexp : s.expLen.toNat = 1 := congrArg BitVec.toNat e
  rcases hs.policyOk.1 with h | ⟨h, -⟩
  · rw [h] at hexp
    cases hexp
  · omega

/-! ### The loop and the STEP -/

/-- What the loop does with the oldest byte. -/
theorem drain_cons_ok_cases {op : Byte → State → Except Fault (State × Verdict)} {b : Byte} {q : List Byte}
    {s t : State} {r : Bool} (h : drain op (b :: q) s = .ok (t, r)) :
    (op b (s.withRxq q) = .ok (t, .accept) ∧ r = true) ∨
    ∃ u v, op b (s.withRxq q) = .ok (u, v) ∧ v ≠ .accept ∧ drain op q u = .ok (t, r) := by
  unfold drain at h
  split at h
  case h_1 => cases h
  case h_2 u v hb =>
    split at h
    case isTrue hv => cases h; exact .inl ⟨hv ▸ hb, rfl⟩
    case isFalse hv => exact .inr ⟨u, v, hb, hv, h⟩

/-- A loop that ends with a frame ends with the byte that is accepted, the rest of the queue being left (R119). -/
theorem drain_true {op : Byte → State → Except Fault (State × Verdict)} {q : List Byte} {s t : State}
    (h : drain op q s = .ok (t, true)) :
    ∃ (used : List Byte) (b : Byte) (rest : List Byte) (u : State),
      q = used ++ b :: rest ∧ op b (u.withRxq rest) = .ok (t, .accept) := by
  induction q generalizing s with
  | nil => cases h
  | cons b q ih =>
    rcases drain_cons_ok_cases h with ⟨hb, -⟩ | ⟨u, v, -, -, h⟩
    · exact ⟨[], b, q, s, rfl, hb⟩
    · obtain ⟨used, b', rest, u', rfl, hb⟩ := ih h
      exact ⟨b :: used, b', rest, u', rfl, hb⟩

/-- A loop that ends without a frame has emptied the queue, and keeps what every byte that is not accepted keeps. -/
theorem drain_false {op : Byte → State → Except Fault (State × Verdict)} (P : State → Prop)
    (hq : ∀ s q, P s → P (s.withRxq q)) (hop : ∀ b s t v, v ≠ .accept → P s → op b s = .ok (t, v) → P t)
    {q : List Byte} {s t : State} (hs : P s) (h : drain op q s = .ok (t, false)) : t.rxq = [] ∧ P t := by
  induction q generalizing s with
  | nil => cases h; exact ⟨rfl, hq s [] hs⟩
  | cons b q ih =>
    rcases drain_cons_ok_cases h with ⟨-, hr⟩ | ⟨u, v, hb, hv, h⟩
    · cases hr
    · exact ih (hop b _ u v hv (hq s q hs) hb) h

/-- The fields of a state that only a byte-stream decoder has changed, written out. -/
theorem OnlyFramer.eq {s t : State} (h : OnlyFramer s t) :
    t = { s with
      ch := t.ch, buf := t.buf, idx := t.idx, expLen := t.expLen, lastByteMs := t.lastByteMs
      lastFrameMs := t.lastFrameMs, rxq := t.rxq, out := t.out, log := t.log } := by
  have refill (r u : State) : { r.eraseFramer with
      ch := u.ch, buf := u.buf, idx := u.idx, expLen := u.expLen, lastByteMs := u.lastByteMs
      lastFrameMs := u.lastFrameMs, rxq := u.rxq, out := u.out, log := u.log } = { r with
      ch := u.ch, buf := u.buf, idx := u.idx, expLen := u.expLen, lastByteMs := u.lastByteMs
      lastFrameMs := u.lastFrameMs, rxq := u.rxq, out := u.out, log := u.log } := rfl
  rw [← refill, ← h]
  rfl

/-- Every STEP of a byte-stream decoder that completes keeps its contract, from whatever state. -/
theorem policyStep_contract {x : Policy} {now : Stamp} {s t : State} (h : policyStep x now s = .ok t) :
    ByteStreamStep now s t := by
  have hframe := (policyStep_onlyFramer h).eq
  have hfailed {u : State} (hd : drain (policyByte x now) s.rxq s = .ok (u, false)) :
      u.rxq = [] ∧ u.ch = s.ch ∧ u.lastFrameMs = s.lastFrameMs :=
    drain_false (fun u => u.ch = s.ch ∧ u.lastFrameMs = s.lastFrameMs) (fun _ _ hu => hu)
      (fun b u u' v hv hu hb =>
        have ⟨hch, hstamp⟩ := policyByte_goes_on hv hb
        ⟨hch.trans hu.1, hstamp.trans hu.2⟩)
      ⟨rfl, rfl⟩ hd
  rcases byteStreamStep_ok_cases h with ⟨u, hd, rfl⟩ | ⟨u, hd, -, rfl⟩ | ⟨u, hd, -, rfl⟩
  · obtain ⟨used, b, rest, w, hq, hb⟩ := drain_true hd
    obtain ⟨hframeMs, hbyteMs, hidx⟩ := policyByte_accept hb
    refine ⟨⟨true, rfl⟩, (nomatch ·), fun _ => ⟨hframeMs, hbyteMs, hidx, used ++ [b], by simp, ?_⟩, hframe⟩
    rw [State.withOut_rxq, policyByte_rxq hb, hq]
    simp
  · have hu := hfailed hd
    exact ⟨⟨false, rfl⟩, fun _ => hu, (nomatch ·), hframe⟩
  · have hu := hfailed hd
    exact ⟨⟨false, rfl⟩, fun _ => hu, (nomatch ·), hframe⟩

/-- From a good state the STEP completes, with a good state. -/
theorem policyStep_total {x : Policy} {s : State} (hs : FillOk x s) (now : Stamp) :
    ∃ t, policyStep x now s = .ok t ∧ FillOk x t := by
  obtain ⟨u, r, hd, hu⟩ := drain_total (op := policyByte x now) (FillOk x) (fun _ _ h => ⟨h.legal, h.policyOk⟩)
    (fun b _ h => policyByte_total h now b) s.rxq s hs
  have hstep : ∃ t, policyStep x now s = .ok t := by
    unfold policyStep byteStreamStep
    rw [hd]
    cases r <;> exact ⟨_, rfl⟩
  obtain ⟨t, h⟩ := hstep
  exact ⟨t, h, byteStreamStep_keeps (FillOk x) (fun _ _ h => ⟨h.legal, h.policyOk⟩)
    (fun _ _ _ _ hu hb => policyByte_keeps_fillOk hu hb) (fun _ _ h => ⟨h.legal, h.policyOk⟩)
    (fun _ _ h => ⟨h.legal, h.policyOk⟩) hs h⟩

/-- The STEP of a policy and FRAMER.STEP with it complete from a good state and keep the contract. -/
theorem streamSteps_complete {x : Policy} {s : State} (hs : FillOk x s) (now : Stamp) :
    (∃ t, ran (policyStep x now s) = .next t ∧ PolicyOk x t ∧ ByteStreamStep now s t) ∧
    ∃ t, ran (framerStep x now s) = .next t ∧ ByteStreamStep now s t := by
  obtain ⟨t, h, ht⟩ := policyStep_total hs now
  have hnext : ran (policyStep x now s) = .next t := ran_next_iff.mpr h
  exact ⟨⟨t, hnext, ht.policyOk, policyStep_contract h⟩, t, framerStep_eq_policyStep hs.lengthFirst ▸ hnext,
    policyStep_contract h⟩

/-- Settles O25: one argument for the five policies. -/
theorem byteStreamStepsComplete : Obligations.ByteStreamStepsComplete := by
  intro now s hl
  have complete (x : Policy) (hx : PolicyOk x s) := streamSteps_complete ⟨hl, hx⟩ now
  refine ⟨complete .sbus, complete .crsf, fun h16 => ?_, complete .fport⟩
  obtain ⟨hdsm2, hframer2⟩ := complete .dsm2 h16
  obtain ⟨hdsmx, hframerx⟩ := complete .dsmx h16
  exact ⟨hdsm2, hdsmx, hframer2, hframerx⟩

end Sys2Proof.Machine
end

section
/-! The contract of STEP(T) under every selector (40_dispatch.md R92 to R94, 10_state.md R35). -/

namespace Sys2Proof.Machine

/-- The framer session state (R13 to R17). -/
def State.session (s : State) : Vector Byte 64 × BitVec 7 × BitVec 7 × Stamp × Stamp :=
  (s.buf, s.idx, s.expLen, s.lastByteMs, s.lastFrameMs)

theorem session_eq_iff {s t : State} : t.session = s.session ↔
    t.buf = s.buf ∧ t.idx = s.idx ∧ t.expLen = s.expLen ∧ t.lastByteMs = s.lastByteMs ∧
      t.lastFrameMs = s.lastFrameMs := by
  simp [State.session]

theorem expLen_of_session {s t : State} (h : t.session = s.session) : t.expLen = s.expLen := by
  obtain ⟨-, -, hexp, -, -⟩ := session_eq_iff.mp h
  exact hexp

/-- The state without what a STEP may write: what a byte-stream decoder may, `fc`, and the model's own account of the
collaborator's answers. -/
def State.eraseMain (s : State) : State :=
  { s.eraseFramer with fc := false, ibusAns := [], ibusCalls := 0 }

/-- From `s` to `t` only what a STEP may write has changed. -/
abbrev OnlyMain (s t : State) : Prop := t.eraseMain = s.eraseMain

/-- What STEP(T) does, whatever arm it is (R94, R35). -/
structure StepContract (s t : State) : Prop where
  bit : ∃ ok, t.out = .stepOk ok
  failed : t.out = .stepOk false → t.ch = s.ch
  fc : t.fc = s.fc ∨ (s.cfg.proto s.psel = .ppm ∧ t.out = .stepOk true ∧ t.fc = false)
  framer : byteStream (s.cfg.proto s.psel) = false → t.session = s.session ∧ t.rxq = s.rxq
  answers : s.cfg.proto s.psel ≠ .ibus → t.ibusAns = s.ibusAns ∧ t.ibusCalls = s.ibusCalls
  frame : OnlyMain s t

/-! ### The arms -/

/-- A failed poll returns 0, with a label or none; a successful one gives channels and clears `fc` (R172). -/
theorem stepPpm_ok_cases {now : Stamp} {s t : State} (h : stepPpm now s = .ok t) :
    (∃ log, t = { s with out := .stepOk false, log := log }) ∨
    ∃ ch, t = { s with ch := ch, fc := false, out := .stepOk true } := by
  unfold stepPpm ppmCritical at h
  split_ifs at h
  case pos => exact .inl ⟨_, (Except.ok.inj h).symm⟩
  case pos => exact .inl ⟨_, (Except.ok.inj h).symm⟩
  case pos => exact .inl ⟨_, (Except.ok.inj h).symm⟩
  case pos => exact .inr ⟨_, (Except.ok.inj h).symm⟩

/-- A latched frame has at most sixteen channels, so a poll answers (R32, R34 e). -/
theorem stepPpm_total (now : Stamp) {s : State} (hs : CaptureOk s) : ∃ t, stepPpm now s = .ok t := by
  cases hfc : s.fc with
  | false => exact ⟨_, by rw [stepPpm, if_pos hfc]⟩
  | true =>
    have hn : s.latN.toNat ≤ 16 := (hs.fcHasFrame hfc).2
    simp only [stepPpm, ppmCritical, if_pos hn]
    split_ifs <;> exact ⟨_, rfl⟩

/-- With nothing new the adapter returns 0; else it gives channels (R186). The answer is taken in both cases. -/
theorem stepIbus_ok_cases {s t : State} (h : stepIbus s = .ok t) :
    ∃ answers calls, t = { s with out := .stepOk false, ibusAns := answers, ibusCalls := calls } ∨
      ∃ ch, t = { s with ch := ch, out := .stepOk true, ibusAns := answers, ibusCalls := calls } := by
  obtain ⟨a, answers, calls, hadv⟩ : ∃ a answers calls,
      ibusAdvance s = (a, { s with ibusAns := answers, ibusCalls := calls }) := by
    cases hans : s.ibusAns with
    | nil => exact ⟨_, _, _, ibusAdvance_nil hans⟩
    | cons a rest => exact ⟨_, _, _, ibusAdvance_cons hans⟩
  refine ⟨answers, calls, ?_⟩
  simp only [stepIbus, hadv, ibusCopy, State.withCh, State.withOut] at h
  split_ifs at h
  case pos => exact .inl (Except.ok.inj h).symm
  case pos => exact .inr ⟨_, (Except.ok.inj h).symm⟩

/-- A legal configuration has at most sixteen IBUS channels, so the adapter answers (U8). -/
theorem stepIbus_total {s : State} (hl : s.cfg.Legal) : ∃ t, stepIbus s = .ok t := by
  have hcfg : (ibusAdvance s).2.cfg = s.cfg := by
    cases hans : s.ibusAns with
    | nil => rw [ibusAdvance_nil hans]
    | cons a rest => rw [ibusAdvance_cons hans]
  have hn : (ibusAdvance s).2.cfg.ibusNch ≤ 16 := hcfg.symm ▸ hl.ibusCount.2
  rw [stepIbus, ibusCopy, if_pos hn]
  split_ifs <;> exact ⟨_, rfl⟩

theorem byteStream_policyProtocol (x : Policy) : byteStream (policyProtocol x) = true := by cases x <;> rfl

theorem stepPpm_stepContract {now : Stamp} {s t : State} (hp : s.cfg.proto s.psel = .ppm)
    (h : stepPpm now s = .ok t) : StepContract s t := by
  rcases stepPpm_ok_cases h with ⟨log, rfl⟩ | ⟨ch, rfl⟩
  · exact ⟨⟨_, rfl⟩, fun _ => rfl, .inl rfl, fun _ => ⟨rfl, rfl⟩, fun _ => ⟨rfl, rfl⟩, rfl⟩
  · exact ⟨⟨_, rfl⟩, (nomatch ·), .inr ⟨hp, rfl, rfl⟩, fun _ => ⟨rfl, rfl⟩, fun _ => ⟨rfl, rfl⟩, rfl⟩

theorem stepIbus_stepContract {s t : State} (hp : s.cfg.proto s.psel = .ibus) (h : stepIbus s = .ok t) :
    StepContract s t := by
  obtain ⟨answers, calls, rfl | ⟨ch, rfl⟩⟩ := stepIbus_ok_cases h
  · exact ⟨⟨_, rfl⟩, fun _ => rfl, .inl rfl, fun _ => ⟨rfl, rfl⟩, fun hne => absurd hp hne, rfl⟩
  · exact ⟨⟨_, rfl⟩, (nomatch ·), .inl rfl, fun _ => ⟨rfl, rfl⟩, fun hne => absurd hp hne, rfl⟩

theorem policyStep_stepContract {x : Policy} {now : Stamp} {s t : State}
    (hp : s.cfg.proto s.psel = policyProtocol x) (h : policyStep x now s = .ok t) : StepContract s t := by
  have hcontract := policyStep_contract h
  have hframe := policyStep_onlyFramer h
  have hfc : t.fc = s.fc := show t.eraseFramer.fc = s.eraseFramer.fc from congrArg State.fc hframe
  have hans : t.ibusAns = s.ibusAns :=
    show t.eraseFramer.ibusAns = s.eraseFramer.ibusAns from congrArg State.ibusAns hframe
  have hcalls : t.ibusCalls = s.ibusCalls :=
    show t.eraseFramer.ibusCalls = s.eraseFramer.ibusCalls from congrArg State.ibusCalls hframe
  refine ⟨hcontract.bit, fun hout => (hcontract.failed hout).2.1, .inl hfc, fun hb => ?_, fun _ => ⟨hans, hcalls⟩, ?_⟩
  · rw [hp, byteStream_policyProtocol] at hb
    cases hb
  · exact congrArg (fun u : State => { u with fc := false, ibusAns := [], ibusCalls := 0 }) hframe

/-! ### The dispatcher -/

/-- Every STEP(T) that completes keeps the contract, from whatever state. -/
theorem stepDispatch_contract {t : Nat} {s u : State} (h : stepDispatch t s = .ok u) : StepContract s u := by
  rcases stepDispatch_ok_cases h with ⟨hp, h⟩ | ⟨hp, h⟩ | ⟨x, hp, h⟩ | ⟨-, rfl⟩
  · exact stepPpm_stepContract hp h
  · exact stepIbus_stepContract hp h
  · exact policyStep_stepContract hp h
  · exact ⟨⟨_, rfl⟩, fun _ => rfl, .inl rfl, fun _ => ⟨rfl, rfl⟩, fun _ => ⟨rfl, rfl⟩, rfl⟩

theorem stepDispatch_total_of_policy {x : Policy} {s : State} (t : Nat) (hp : s.cfg.proto s.psel = policyProtocol x)
    (hl : s.cfg.Legal) (hf : FramerOk s) : ∃ u, stepDispatch t s = .ok u := by
  obtain ⟨u, h, -⟩ := policyStep_total ⟨hl, (framerOk_iff_policyOk hp).mp hf⟩ (tMs t)
  exact ⟨u, (stepDispatch_of_policy t hp).trans h⟩

/-- STEP(T) completes from every good state, under every selector. -/
theorem stepDispatch_total (t : Nat) {s : State} (hl : s.cfg.Legal) (hf : FramerOk s) (hc : CaptureOk s) :
    ∃ u, stepDispatch t s = .ok u := by
  cases hp : s.cfg.proto s.psel with
  | ppm => simpa only [stepDispatch, hp] using stepPpm_total (tMs t) hc
  | ibus => simpa only [stepDispatch, hp] using stepIbus_total hl
  | sbus => exact stepDispatch_total_of_policy (x := .sbus) t hp hl hf
  | crsf => exact stepDispatch_total_of_policy (x := .crsf) t hp hl hf
  | dsm2 => exact stepDispatch_total_of_policy (x := .dsm2) t hp hl hf
  | dsmx => exact stepDispatch_total_of_policy (x := .dsmx) t hp hl hf
  | fport => exact stepDispatch_total_of_policy (x := .fport) t hp hl hf
  | rsvd => exact ⟨stepRsvd s, by simp only [stepDispatch, hp]⟩

/-- The fields outside `eraseMain`, one by one. -/
theorem OnlyMain.fields {s t : State} (h : OnlyMain s t) :
    t.psel = s.psel ∧ t.lastEdgeUs = s.lastEdgeUs ∧ t.pw = s.pw ∧ t.ppmIdx = s.ppmIdx ∧ t.lat = s.lat ∧
      t.latN = s.latN ∧ t.missed = s.missed ∧ t.ppmLastFrameMs = s.ppmLastFrameMs ∧ t.ibusInited = s.ibusInited ∧
      t.time = s.time ∧ t.cfg = s.cfg ∧ t.inbox = s.inbox := by
  simpa [OnlyMain, State.eraseMain, State.eraseFramer, and_assoc] using h

/-- Settles O51: the STEP completes, and what completes keeps the contract. -/
theorem stepCompletesAndKeepsContract : Obligations.StepCompletesAndKeepsContract := by
  intro t s hl hf hc
  have hc' : CaptureOk (s.withTime t) := captureOk_congr hc rfl rfl id
  obtain ⟨u, h⟩ := stepDispatch_total t (s := s.withTime t) hl hf hc'
  have hu := stepDispatch_contract h
  obtain ⟨hpsel, hedge, hpw, hidx, hlat, hn, hmissed, hlast, hinit, htime, hcfg, hinbox⟩ := hu.frame.fields
  refine ⟨u, ran_next_iff.mpr h, htime, hu.bit, hu.failed, hpsel, hcfg, hinit, hinbox, hedge, hpw, hidx, hlat, hn,
    hmissed, hlast, hu.fc, fun hb => ?_, hu.answers⟩
  obtain ⟨hsession, hrxq⟩ := hu.framer hb
  obtain ⟨hbuf, hfill, hexp, hbyte, hframe⟩ := session_eq_iff.mp hsession
  exact ⟨hbuf, hfill, hexp, hbyte, hframe, hrxq⟩

end Sys2Proof.Machine
end

section
/-! The state that the selected decoder does not use (40_dispatch.md R91). -/

namespace Sys2Proof.Machine

/-- The capture state (R18 to R25). -/
def State.capture (s : State) :
    Stamp × Vector Half 16 × BitVec 5 × Vector Half 16 × BitVec 5 × Bool × BitVec 8 × Stamp :=
  (s.lastEdgeUs, s.pw, s.ppmIdx, s.lat, s.latN, s.fc, s.missed, s.ppmLastFrameMs)

theorem captureDormant_congr {s t : State} (h : t.capture = s.capture) (hs : CaptureDormant s) : CaptureDormant t := by
  simp only [State.capture, Prod.mk.injEq] at h
  obtain ⟨hedge, hpw, hidx, hlat, hn, hfc, hmissed, hlast⟩ := h
  exact ⟨hedge.trans hs.lastEdgeUs, hpw.trans hs.pw, hidx.trans hs.ppmIdx, hlat.trans hs.lat, hn.trans hs.latN,
    hfc.trans hs.fc, hmissed.trans hs.missed, hlast.trans hs.ppmLastFrameMs⟩

theorem framerDormant_congr {s t : State} (h : t.session = s.session) (hs : FramerDormant s) : FramerDormant t := by
  obtain ⟨hbuf, hidx, hexp, hbyte, hframe⟩ := session_eq_iff.mp h
  exact ⟨hbuf.trans hs.buf, hidx.trans hs.idx, hexp.trans hs.expLen, hbyte.trans hs.lastByteMs,
    hframe.trans hs.lastFrameMs⟩

/-- A step that leaves the selection alone keeps dormancy where it leaves alone what the selected decoder does not
use. -/
theorem Dormant.congr {s t : State} (h : Dormant s) (hpsel : t.psel = s.psel) (hcfg : t.cfg = s.cfg)
    (hinit : t.ibusInited = s.ibusInited) (hcapture : s.cfg.proto s.psel ≠ .ppm → t.capture = s.capture)
    (hsession : byteStream (s.cfg.proto s.psel) = false → t.session = s.session)
    (hexp : s.cfg.proto s.psel ≠ .crsf → s.cfg.proto s.psel ≠ .fport → t.expLen = s.expLen) : Dormant t := by
  have hproto : t.cfg.proto t.psel = s.cfg.proto s.psel := by rw [hcfg, hpsel]
  constructor
  · rw [hproto]
    exact fun hne => captureDormant_congr (hcapture hne) (h.capture hne)
  · rw [hproto]
    exact fun hb => framerDormant_congr (hsession hb) (h.framer hb)
  · rw [hproto]
    exact fun hcrsf hfport => (hexp hcrsf hfport).trans (h.expLen hcrsf hfport)
  · rw [hinit, hcfg, hpsel]
    exact h.ibus

/-- A policy with no length rule never writes `exp_len` (R15). -/
theorem policyByte_expLen {x : Policy} (hx : ∀ c, policyLengthOk c x = none) {now : Stamp} {b : Byte} {s t : State}
    {v : Verdict} (h : policyByte x now b s = .ok (t, v)) : t.expLen = s.expLen := by
  have heff := policyByte_effect h
  rw [← gapCheck_expLen (policyByteTo s.cfg x) now s]
  generalize gapCheck (policyByteTo s.cfg x) now s = g at heff ⊢
  cases heff with
  | badSync => rfl
  | badLength => rfl
  | takeLength ok h64 h1 hrule hb => exact nomatch (hx g.cfg).symm.trans hrule
  | stored => rfl
  | completed h64 hlen hf => rcases policyFrame_ok_cases hf with ⟨l, rfl⟩ | ⟨ch, -, rfl⟩ <;> rfl

theorem policyStep_expLen {x : Policy} (hx : ∀ c, policyLengthOk c x = none) {now : Stamp} {s t : State}
    (h : policyStep x now s = .ok t) : t.expLen = s.expLen :=
  byteStreamStep_keeps (fun u => u.expLen = s.expLen) (fun _ _ hu => hu)
    (fun _ _ _ _ hu hb => (policyByte_expLen hx hb).trans hu) (fun _ _ hu => hu) (fun _ _ hu => hu) rfl h

/-- Only CRSF and FPORT have a length rule (R120). -/
theorem policyLengthOk_eq_none {x : Policy} (hcrsf : policyProtocol x ≠ .crsf) (hfport : policyProtocol x ≠ .fport)
    (c : Cfg) : policyLengthOk c x = none := by
  cases x with
  | crsf => exact absurd rfl hcrsf
  | fport => exact absurd rfl hfport
  | sbus => rfl
  | dsm2 => rfl
  | dsmx => rfl

theorem stepDispatch_expLen {t : Nat} {s u : State} (hcrsf : s.cfg.proto s.psel ≠ .crsf)
    (hfport : s.cfg.proto s.psel ≠ .fport) (h : stepDispatch t s = .ok u) : u.expLen = s.expLen := by
  rcases stepDispatch_ok_cases h with ⟨-, h⟩ | ⟨-, h⟩ | ⟨x, hp, h⟩ | ⟨-, rfl⟩
  · obtain ⟨ch, fc, out, log, -, -, rfl⟩ := stepPpm_ok h
    rfl
  · obtain ⟨ch, out, answers, calls, -, rfl⟩ := stepIbus_ok h
    rfl
  · exact policyStep_expLen (policyLengthOk_eq_none (hp ▸ hcrsf) (hp ▸ hfport)) h
  · rfl

theorem stepDispatch_keeps_dormant {t : Nat} {s u : State} (hs : Dormant s) (h : stepDispatch t s = .ok u) :
    Dormant u := by
  have hu := stepDispatch_contract h
  obtain ⟨hpsel, hedge, hpw, hidx, hlat, hn, hmissed, hlast, hinit, -, hcfg, -⟩ := hu.frame.fields
  refine hs.congr hpsel hcfg hinit (fun hne => ?_) (fun hb => (hu.framer hb).1)
    (fun hcrsf hfport => stepDispatch_expLen hcrsf hfport h)
  have hfc : u.fc = s.fc := hu.fc.resolve_right fun hclear => hne hclear.1
  simp only [State.capture, hedge, hpw, hidx, hlat, hn, hfc, hmissed, hlast]

/-- R221: without PPM no edge is handled, and with PPM the capture state is in use. -/
theorem edge_keeps_dormant {t : Nat} {s u : State} (hs : Dormant s) (h : edge t s = .ok u) : Dormant u := by
  have hframe := edge_onlyCapture h
  obtain ⟨hpsel, hcfg, -⟩ := sameWiring_iff.mp hframe.sameWiring
  have hinit : u.ibusInited = s.ibusInited :=
    show u.eraseCapture.ibusInited = s.eraseCapture.ibusInited from congrArg State.ibusInited hframe
  have hsession : u.session = s.session :=
    show u.eraseCapture.session = s.eraseCapture.session from congrArg State.session hframe
  refine hs.congr hpsel hcfg hinit (fun hne => ?_) (fun _ => hsession) (fun _ _ => expLen_of_session hsession)
  rw [edge_of_ne_ppm t hne] at h
  cases h
  rfl

theorem reset_dormant (psel : Psel) (s : State) : Dormant (reset psel s) where
  capture := fun _ => ⟨rfl, rfl, rfl, rfl, rfl, rfl, rfl, rfl⟩
  framer := fun _ => ⟨rfl, rfl, rfl, rfl, rfl⟩
  expLen := fun _ _ => rfl
  ibus := rfl

/-- Fields that dormancy does not speak of may change at will. -/
theorem Dormant.of_unused {s t : State} (h : Dormant s) (hpsel : t.psel = s.psel) (hcfg : t.cfg = s.cfg)
    (hinit : t.ibusInited = s.ibusInited) (hcapture : t.capture = s.capture) (hsession : t.session = s.session) :
    Dormant t :=
  h.congr hpsel hcfg hinit (fun _ => hcapture) (fun _ => hsession) fun _ _ => expLen_of_session hsession

/-- Every event keeps dormancy (R91). -/
theorem exec_event_keeps_dormant {i : Instr} {s t : State} (hi : i.isEvent = true) (hs : Dormant s)
    (h : exec i s = .next t) : Dormant t := by
  cases i with
  | reset psel => cases h; exact reset_dormant psel s
  | rxpush b => cases h; exact hs.of_unused rfl rfl rfl rfl rfl
  | step u =>
    exact stepDispatch_keeps_dormant (s := s.withTime u) (hs.of_unused rfl rfl rfl rfl rfl) (ran_next_iff.mp h)
  | edge u => exact edge_keeps_dormant (s := s.withTime u) (hs.of_unused rfl rfl rfl rfl rfl) (ran_next_iff.mp h)
  | _ => cases hi

/-- Settles O55: the record that a step takes is an event, and each of the four events keeps dormancy. -/
theorem stepKeepsDormantState : Obligations.StepKeepsDormantState := by
  intro s t he hs h
  rcases step_next_cases h with rfl | ⟨r, rest, i, hin, hd, hex⟩
  · exact hs
  · have hr : recordIsEvent r = true := he r (hin ▸ List.mem_cons_self)
    have hi : i.isEvent = true := by rwa [recordIsEvent, hd] at hr
    exact exec_event_keeps_dormant hi (s := s.withInbox rest) (hs.of_unused rfl rfl rfl rfl rfl) hex

end Sys2Proof.Machine
end

section
/-! NORM: SCALE is a monotone map that rounds to nearest, and each normaliser is SCALE or a clamp in full
(41_normalizer.md R100 to R108). -/

namespace Sys2Proof.Machine

/-! ### The clamp -/

theorem clamp_eq_max_min {v lo hi : Nat} (h : lo ≤ hi) : clamp v lo hi = max lo (min hi v) := by
  unfold clamp
  split
  · omega
  · split <;> omega

theorem clamp_of_mem {v lo hi : Nat} (hlo : lo ≤ v) (hhi : v ≤ hi) : clamp v lo hi = v := by
  rw [clamp_eq_max_min (hlo.trans hhi), min_eq_right hhi, max_eq_right hlo]

theorem clamp_mono {a b lo hi : Nat} (h : lo ≤ hi) (hab : a ≤ b) : clamp a lo hi ≤ clamp b lo hi := by
  rw [clamp_eq_max_min h, clamp_eq_max_min h]
  exact max_le_max_left lo (min_le_min_left hi hab)

/-! ### SCALE -/

theorem scale_of_lt {lo hi : Nat} (h : lo < hi) (raw : Nat) :
    scale raw lo hi = 1000 + ((clamp raw lo hi - lo) * 2000 + (hi - lo)) / (2 * (hi - lo)) :=
  if_pos h

theorem scale_of_ge {lo hi : Nat} (h : hi ≤ lo) (raw : Nat) : scale raw lo hi = Config.scaleUnstated raw lo hi :=
  if_neg h.not_gt

/-- Inside the range the clamp does nothing. -/
theorem scale_of_mem {raw lo hi : Nat} (h : lo < hi) (hlo : lo ≤ raw) (hhi : raw ≤ hi) :
    scale raw lo hi = 1000 + ((raw - lo) * 2000 + (hi - lo)) / (2 * (hi - lo)) := by
  rw [scale_of_lt h, clamp_of_mem hlo hhi]

theorem scale_mono {a b lo hi : Nat} (h : lo < hi) (hab : a ≤ b) : scale a lo hi ≤ scale b lo hi := by
  have hc := clamp_mono h.le hab
  rw [scale_of_lt h, scale_of_lt h]
  gcongr

theorem scale_lo {lo hi : Nat} (h : lo < hi) : scale lo lo hi = 1000 := by
  rw [scale_of_mem h le_rfl h.le, Nat.div_eq_of_lt (by omega)]

theorem scale_hi {lo hi : Nat} (h : lo < hi) : scale hi lo hi = 2000 := by
  rw [scale_of_mem h h.le le_rfl, Nat.div_eq_of_lt_le (k := 1000) (by omega) (by omega)]

/-- Both midpoints of a range of odd width above 1000 map to 1500; a narrower one has steps too wide for that. -/
theorem scale_midpoints {lo hi : Nat} (hodd : (hi - lo) % 2 = 1) (hwide : 1000 < hi - lo) :
    scale (lo + (hi - lo) / 2) lo hi = 1500 ∧ scale (lo + (hi - lo) / 2 + 1) lo hi = 1500 := by
  have h : lo < hi := by omega
  constructor
  · rw [scale_of_mem h (by omega) (by omega), Nat.div_eq_of_lt_le (k := 500) (by omega) (by omega)]
  · rw [scale_of_mem h (by omega) (by omega), Nat.div_eq_of_lt_le (k := 500) (by omega) (by omega)]

/-- Over a range of odd width `d` SCALE rounds to nearest: a tie would make `d` even, as `2 * d * q = 2000 * x + d`. -/
theorem scale_nearest {raw lo hi : Nat} (hodd : (hi - lo) % 2 = 1) (hlo : lo ≤ raw) (hhi : raw ≤ hi) :
    2 * ((hi - lo) * (scale raw lo hi - 1000)) < 2 * ((raw - lo) * 1000) + (hi - lo) ∧
    2 * ((raw - lo) * 1000) < 2 * ((hi - lo) * (scale raw lo hi - 1000)) + (hi - lo) := by
  rw [scale_of_mem (by omega) hlo hhi, Nat.add_sub_cancel_left]
  generalize hd : hi - lo = d at hodd ⊢
  generalize raw - lo = x
  have hrem : (x * 2000 + d) % (2 * d) < 2 * d := Nat.mod_lt _ (by omega)
  have hdiv := Nat.div_add_mod (x * 2000 + d) (2 * d)
  rw [Nat.mul_assoc] at hdiv
  omega

/-- The widths of the three ranges in use (R101 to R103) are odd and above 1000. -/
theorem range_in_use {p : Nat × Nat} (hp : p ∈ [(172, 1811), (0, 2047), (0, 1023)]) :
    (p.2 - p.1) % 2 = 1 ∧ 1000 < p.2 - p.1 := by
  simp only [List.mem_cons, List.not_mem_nil, or_false] at hp
  rcases hp with rfl | rfl | rfl <;> decide

/-- Settles O16: the midpoints follow from the widths of the ranges in use. -/
theorem scaleIsMonotoneOntoRange : Obligations.ScaleIsMonotoneOntoRange :=
  ⟨fun _ _ h => ⟨fun _ _ hab => scale_mono h hab, scale_lo h, scale_hi h, fun _ => scale_bounds h⟩,
    fun _ hp => scale_midpoints (range_in_use hp).1 (range_in_use hp).2⟩

/-- Settles O17: the ranges in use have odd widths, so no tie occurs. -/
theorem scaleRoundsToNearestWithoutTies : Obligations.ScaleRoundsToNearestWithoutTies :=
  fun _ hp _ hlo hhi => scale_nearest (range_in_use hp).1 hlo hhi

theorem exec_scale (raw lo hi : Nat) (s : State) :
    exec (.scale raw lo hi) s = .next { s with out := .value (scale raw lo hi) } := rfl

/-- Settles O14: the clamped operand of R100 is the model's `clamp`. -/
theorem scaleReturnsLinearMap : Obligations.ScaleReturnsLinearMap := by
  intro raw lo hi s
  constructor
  · intro h
    rw [exec_scale, scale_of_lt h, clamp]
  · intro h
    rw [exec_scale, scale_of_ge h]

/-! ### The normalisers -/

/-- A value of the canonical range fits into sixteen bits. -/
theorem toNat_ofNat_of_bounds {n : Nat} (h : 1000 ≤ n ∧ n ≤ 2000) : (BitVec.ofNat 16 n).toNat = n :=
  (BitVec.toNat_ofNat n 16).trans (Nat.mod_eq_of_lt (by omega))

theorem normS11_toNat (raw : BitVec 11) :
    (normS11 raw).toNat = 1000 + ((max 172 (min 1811 raw.toNat) - 172) * 2000 + 1639) / 3278 := by
  rw [normS11, toNat_ofNat_of_bounds (scale_bounds (by decide)), scale_of_lt (by decide),
    clamp_eq_max_min (by decide)]

theorem normU11_toNat (raw : BitVec 11) : (normU11 raw).toNat = 1000 + (raw.toNat * 2000 + 2047) / 4094 := by
  rw [normU11, toNat_ofNat_of_bounds (scale_bounds (by decide)),
    scale_of_mem (by decide) (Nat.zero_le _) (Nat.le_of_lt_succ raw.isLt), Nat.sub_zero]

theorem normU10_toNat (raw : BitVec 10) : (normU10 raw).toNat = 1000 + (raw.toNat * 2000 + 1023) / 2046 := by
  rw [normU10, toNat_ofNat_of_bounds (scale_bounds (by decide)),
    scale_of_mem (by decide) (Nat.zero_le _) (Nat.le_of_lt_succ raw.isLt), Nat.sub_zero]

theorem clampWord_toNat (w : Half) :
    (BitVec.ofNat 16 (clamp w.toNat 1000 2000)).toNat = max 1000 (min 2000 w.toNat) := by
  rw [toNat_ofNat_of_bounds (clamp_bounds (by decide)), clamp_eq_max_min (by decide)]

theorem normPpm_toNat (w : Half) : (normPpm w).toNat = max 1000 (min 2000 w.toNat) := clampWord_toNat w

theorem normIbus_toNat (v : Half) : (normIbus v).toNat = max 1000 (min 2000 v.toNat) := clampWord_toNat v

theorem exec_normS11 (raw : BitVec 11) (s : State) :
    exec (.normS11 raw) s = .next { s with out := .value (normS11 raw).toNat } := rfl

theorem exec_normU11 (raw : BitVec 11) (s : State) :
    exec (.normU11 raw) s = .next { s with out := .value (normU11 raw).toNat } := rfl

theorem exec_normU10 (raw : BitVec 10) (s : State) :
    exec (.normU10 raw) s = .next { s with out := .value (normU10 raw).toNat } := rfl

theorem exec_normPpm (w : Half) (s : State) :
    exec (.normPpm w) s = .next { s with out := .value (normPpm w).toNat } := rfl

theorem exec_normIbus (v : Half) (s : State) :
    exec (.normIbus v) s = .next { s with out := .value (normIbus v).toNat } := rfl

/-- Settles O15: the result port takes the normaliser's value as a number, and that number is the closed form. -/
theorem normalisersReturnClosedForms : Obligations.NormalisersReturnClosedForms := by
  refine fun s => ⟨fun raw => ?s11, fun raw => ?u11, fun raw => ?u10, fun w => ?ppm, fun v => ?ibus⟩
  case s11 => rw [exec_normS11, normS11_toNat]
  case u11 => rw [exec_normU11, normU11_toNat]
  case u10 => rw [exec_normU10, normU10_toNat]
  case ppm => rw [exec_normPpm, normPpm_toNat]
  case ibus => rw [exec_normIbus, normIbus_toNat]

/-- Settles O18: SCALE and the clamp stay between 1000 and 2000. -/
theorem normalisersStayInRange : Obligations.NormalisersStayInRange :=
  ⟨normS11_inRange, normU11_inRange, normU10_inRange, normPpm_inRange, normIbus_inRange⟩

end Sys2Proof.Machine
end

section
/-! The framing pattern (42_framing.md R112 to R116): one equation for each stage of the fill index, the same under every
policy. -/

namespace Sys2Proof.Machine

/-! ### The gap check -/

theorem gapCheck_of_stale {lim : Nat} {now : Stamp} {s : State} (hidx : s.idx ≠ 0)
    (hlate : lim < elapsed now s.lastByteMs) :
    gapCheck lim now s = ((s.raise (.eGap s.idx)).withIdx 0).withByteStamp now := if_pos ⟨hidx, hlate⟩

theorem gapCheck_of_in_time {lim : Nat} {now : Stamp} {s : State} (hle : elapsed now s.lastByteMs ≤ lim) :
    gapCheck lim now s = s.withByteStamp now := if_neg fun ⟨_, hlate⟩ => absurd hlate (Nat.not_lt.mpr hle)

/-- Settles O22: the two branches of R112. -/
theorem gapCheckDropsStaleFrame : Obligations.GapCheckDropsStaleFrame := by
  refine fun limit now s => ⟨fun hidx hlate => gapCheck_of_stale hidx hlate, fun hkept => ?_⟩
  rcases hkept with h0 | hle
  · exact gapCheck_of_search h0
  · exact gapCheck_of_in_time hle

/-- A second check in the same step finds nothing to do, so a byte may be taken from the state after the check. -/
theorem policyByte_gapCheck (x : Policy) (now : Stamp) (b : Byte) (s : State) :
    policyByte x now b s = policyByte x now b (gapCheck (policyByteTo s.cfg x) now s) := by
  have again (lim lim' : Nat) : gapCheck lim' now (gapCheck lim now s) = gapCheck lim now s :=
    gapCheck_of_same_stamp (gapCheck_lastByteMs lim now s)
  cases x <;> simp only [policyByte, policyByteTo, sbusByte, crsfByte, dsmByte, fportByte, again]

/-- A STEP with a queue may be taken from the state after the gap check of its first byte. -/
theorem policyStep_gapCheck {x : Policy} {now : Stamp} {s : State} (hq : s.rxq ≠ []) :
    policyStep x now s = policyStep x now (gapCheck (policyByteTo s.cfg x) now s) := by
  obtain ⟨b, q, hq⟩ := List.exists_cons_of_ne_nil hq
  have hdrain := drain_gapCheck (lim := fun c => policyByteTo c x) (policyByte_gapCheck x now) b q s
  unfold policyStep
  rw [gapCheck_cfg]
  apply byteStreamStep_of_drain_eq
  rw [gapCheck_rxq, hq, hdrain]

/-! ### One byte, by the stage of the fill index -/

/-- `exp_len` after the byte `b` at index 1: CRSF and FPORT take the frame length there (R114). -/
def policyExpLen (x : Policy) (b : Byte) (old : BitVec 7) : BitVec 7 :=
  match x with
  | .sbus => old
  | .crsf => policyLengthOf .crsf b
  | .dsm2 => old
  | .dsmx => old
  | .fport => policyLengthOf .fport b

/-- After the byte at index 1 the frame length in force is the one the length rule gives. -/
theorem policyLen_withExpLen (s : State) (x : Policy) (b : Byte) (old : BitVec 7) :
    policyLen (s.withExpLen (policyExpLen x b old)) x = policyLengthOf x b := by cases x <;> rfl

theorem policyLen_withRxq (s : State) (x : Policy) (q : List Byte) : policyLen (s.withRxq q) x = policyLen s x := by
  cases x <;> rfl

theorem policyLen_withByte (s : State) (x : Policy) (b : Byte) (h : s.idx.toNat < 64) :
    policyLen (s.withByte b h) x = policyLen s x := by cases x <;> rfl

theorem State.withExpLen_kept (s : State) (b : Byte) (h : s.idx.toNat < 64) :
    (s.withByte b h).withExpLen s.expLen = s.withByte b h := rfl

/-! From here on the gap check has been made: `g` is a state whose byte stamp is the step's. -/

section

variable {x : Policy} {now : Stamp} {b : Byte} {g : State}

/-- R113: in sync search a byte is stored, unless it should be the header and is not. -/
theorem policyByte_search (hstamp : g.lastByteMs = now) (h64 : g.idx.toNat < 64) (h0 : g.idx = 0) :
    policyByte x now b g =
      if (policyHeader g.cfg x).all (b == ·) then .ok (g.withByte b h64, .none)
      else .ok (g.raise (.eSync b), .none) := by
  cases x with
  | sbus => by_cases hb : b = 0x0F <;>
      simp [policyByte, sbusByte, policyHeader, gapCheck_of_same_stamp hstamp, storeByte_of_lt h64, h0, hb]
  | crsf => by_cases hb : b = g.cfg.crsfSync <;>
      simp [policyByte, crsfByte, policyHeader, gapCheck_of_same_stamp hstamp, storeByte_of_lt h64, h0, hb]
  | dsm2 => simp [policyByte, dsmByte, policyHeader, gapCheck_of_same_stamp hstamp, storeByte_of_lt h64, h0]
  | dsmx => simp [policyByte, dsmByte, policyHeader, gapCheck_of_same_stamp hstamp, storeByte_of_lt h64, h0]
  | fport => by_cases hb : b = g.cfg.fportHdr <;>
      simp [policyByte, fportByte, policyHeader, gapCheck_of_same_stamp hstamp, storeByte_of_lt h64, h0, hb]

/-- R114: at index 1 a byte is stored and sets `exp_len` where it is a length byte; an illegal one drops the frame. -/
theorem policyByte_length (hstamp : g.lastByteMs = now) (h64 : g.idx.toNat < 64) (h1 : g.idx = 1) :
    policyByte x now b g =
      if (policyLengthOk g.cfg x).all (fun ok => ok b) then
        .ok ((g.withByte b h64).withExpLen (policyExpLen x b g.expLen), .none)
      else .ok ((g.raise (.eLen b)).withIdx 0, .none) := by
  cases x with
  | sbus =>
    simp [policyByte, sbusByte, policyLengthOk, policyExpLen, gapCheck_of_same_stamp hstamp, storeByte_of_lt h64, h1,
      State.withExpLen_kept]
  | crsf =>
    have hrule : b.toNat < g.cfg.crsfLenMin ∨ g.cfg.crsfLenMax < b.toNat ↔
        ¬(g.cfg.crsfLenMin ≤ b.toNat ∧ b.toNat ≤ g.cfg.crsfLenMax) := by omega
    by_cases hb : g.cfg.crsfLenMin ≤ b.toNat ∧ b.toNat ≤ g.cfg.crsfLenMax <;>
      simp [policyByte, crsfByte, policyLengthOk, policyExpLen, policyLengthOf, gapCheck_of_same_stamp hstamp,
        storeByte_of_lt h64, h1, hrule, hb]
  | dsm2 =>
    simp [policyByte, dsmByte, policyLengthOk, policyExpLen, gapCheck_of_same_stamp hstamp, storeByte_of_lt h64, h1,
      State.withExpLen_kept]
  | dsmx =>
    simp [policyByte, dsmByte, policyLengthOk, policyExpLen, gapCheck_of_same_stamp hstamp, storeByte_of_lt h64, h1,
      State.withExpLen_kept]
  | fport =>
    by_cases hb : b = g.cfg.fportLenByte <;>
      simp [policyByte, fportByte, policyLengthOk, policyExpLen, policyLengthOf, gapCheck_of_same_stamp hstamp,
        storeByte_of_lt h64, h1, hb]

/-- R115, R116: later bytes are stored, and the one that completes the frame has it checked in sync search. -/
theorem policyByte_later (hstamp : g.lastByteMs = now) (h64 : g.idx.toNat < 64) (h2 : 2 ≤ g.idx.toNat) :
    policyByte x now b g =
      if g.idx + 1 = policyLen g x then policyFrame x now ((g.withByte b h64).withIdx 0)
      else .ok (g.withByte b h64, .none) := by
  have h0 : g.idx ≠ 0 := fun e => absurd (e ▸ h2) (by decide)
  have h1 : g.idx ≠ 1 := fun e => absurd (e ▸ h2) (by decide)
  cases x <;>
    simp only [policyByte, sbusByte, crsfByte, dsmByte, fportByte, gapCheck_of_same_stamp hstamp,
      storeByte_of_lt h64, h0, h1, false_and, if_false] <;> rfl

end

/-! ### The generic STEP -/

/-- Settles O24: the two loops agree byte by byte. -/
theorem framerStepIsProtocolStep : Obligations.FramerStepIsProtocolStep := by
  intro now s
  have agree (x : Policy) (hx : LengthFirst x s) : ran (framerStep x now s) = ran (policyStep x now s) :=
    congrArg ran (framerStep_eq_policyStep hx)
  exact ⟨agree .sbus nofun, agree .dsm2 nofun, agree .dsmx nofun, agree .fport nofun,
    fun hl hexp => agree .crsf fun _ => ⟨hl, hexp⟩⟩

end Sys2Proof.Machine
end

section
/-! The overall timeout (42_framing.md R118): an empty queue, and where E_LOS stands among the labels of a STEP. -/

namespace Sys2Proof.Machine

/-! ### An empty queue -/

/-- R118, R121: with nothing to pop a STEP fails, and says so past the overall timeout. -/
theorem policyStep_of_empty {x : Policy} {now : Stamp} {s : State} (hq : s.rxq = []) :
    policyStep x now s = .ok
      { s with
        out := .stepOk false
        log := if policyFrameTo s.cfg x < (now - s.lastFrameMs).toNat then s.log ++ [.eLos] else s.log } := by
  have hdrain : drain (policyByte x now) s.rxq s = .ok (s, false) := by
    rw [hq, drain_nil, ← hq]
    rfl
  unfold policyStep byteStreamStep
  rw [hdrain]
  by_cases hlate : policyFrameTo s.cfg x < (now - s.lastFrameMs).toNat <;> simp only [hlate, if_true, if_false] <;> rfl

/-- Settles O23. -/
theorem emptyQueueStepChangesNothing : Obligations.EmptyQueueStepChangesNothing := by
  intro now s hq
  have idle (x : Policy) := congrArg ran (policyStep_of_empty (x := x) (now := now) hq)
  exact ⟨idle .sbus, idle .crsf, idle .dsm2, idle .dsmx, idle .fport⟩

/-! ### Labels other than E_LOS -/

/-- From `s` to `t` labels have been added at the end of the event log, none of them E_LOS. -/
def LogsNoLos (s t : State) : Prop := ∃ d, .eLos ∉ d ∧ t.log = s.log ++ d

theorem LogsNoLos.of_log_eq {s t : State} (h : t.log = s.log) : LogsNoLos s t := ⟨[], by simp, by simp [h]⟩

theorem LogsNoLos.of_raise {s t : State} {l : Label} (hl : l ≠ .eLos) (h : t.log = s.log ++ [l]) : LogsNoLos s t :=
  ⟨[l], by simpa using hl.symm, h⟩

theorem LogsNoLos.trans {s t u : State} (hst : LogsNoLos s t) (htu : LogsNoLos t u) : LogsNoLos s u := by
  obtain ⟨d, hd, ht⟩ := hst
  obtain ⟨e, he, hu⟩ := htu
  exact ⟨d ++ e, by simp [hd, he], by rw [hu, ht, List.append_assoc]⟩

theorem gapCheck_logsNoLos (lim : Nat) (now : Stamp) (s : State) : LogsNoLos s (gapCheck lim now s) := by
  rcases gapCheck_cases lim now s with ⟨-, -, e⟩ | ⟨-, e⟩ <;> rw [e]
  · exact .of_raise (l := .eGap s.idx) nofun rfl
  · exact .of_log_eq rfl

/-- The labels of SBUS.FRAME (R127). -/
theorem sbusFrame_logsNoLos (now : Stamp) (s : State) : LogsNoLos s (sbusFrame now s).1 := by
  unfold sbusFrame
  split
  · exact .of_raise (l := .eFooter s.buf[24]) nofun rfl
  split
  · exact .of_raise (l := .eFlags s.buf[23]) nofun rfl
  · exact .of_log_eq rfl

/-- The labels of FPORT.FRAME (R157). -/
theorem fportFrame_logsNoLos (now : Stamp) (s : State) : LogsNoLos s (fportFrame now s).1 := by
  unfold fportFrame
  split
  · exact .of_raise (l := .eTerm s.buf[28]) nofun rfl
  split
  · exact .of_raise (l := .eType s.buf[2] none) nofun rfl
  split
  · exact .of_raise (l := .eXor) nofun rfl
  · exact .of_log_eq rfl

/-- The labels of CRSF.FRAME (R137). -/
theorem crsfFrame_logsNoLos {now : Stamp} {s t : State} {v : Verdict} (h : crsfFrame now s = .ok (t, v)) :
    LogsNoLos s t := by
  unfold crsfFrame at h
  split at h
  · split at h
    · cases h; exact .of_raise (l := .eXor) nofun rfl
    split at h <;> cases h
    · exact .of_raise (l := .eType s.buf[2] (some s.buf[1])) nofun rfl
    · exact .of_log_eq rfl
  · cases h

theorem policyFrame_logsNoLos {x : Policy} {now : Stamp} {s t : State} {v : Verdict}
    (h : policyFrame x now s = .ok (t, v)) : LogsNoLos s t := by
  cases x with
  | sbus =>
    obtain rfl : (sbusFrame now s).1 = t := congrArg Prod.fst (Except.ok.inj h)
    exact sbusFrame_logsNoLos now s
  | crsf => exact crsfFrame_logsNoLos h
  | dsm2 => cases h; exact .of_log_eq rfl
  | dsmx => cases h; exact .of_log_eq rfl
  | fport =>
    obtain rfl : (fportFrame now s).1 = t := congrArg Prod.fst (Except.ok.inj h)
    exact fportFrame_logsNoLos now s

/-- A byte adds labels of its gap, of its stage and of the frame it completes. -/
theorem policyByte_logsNoLos {x : Policy} {now : Stamp} {b : Byte} {s t : State} {v : Verdict}
    (h : policyByte x now b s = .ok (t, v)) : LogsNoLos s t := by
  refine (gapCheck_logsNoLos (policyByteTo s.cfg x) now s).trans ?_
  have h64 := idx_lt_of_policyByte_ok h
  have hstamp := gapCheck_lastByteMs (policyByteTo s.cfg x) now s
  rw [policyByte_gapCheck] at h
  generalize gapCheck (policyByteTo s.cfg x) now s = g at h h64 hstamp ⊢
  by_cases h0 : g.idx = 0
  · rw [policyByte_search hstamp h64 h0] at h
    split at h <;> cases h
    · exact .of_log_eq rfl
    · exact .of_raise (l := .eSync b) nofun rfl
  by_cases h1 : g.idx = 1
  · rw [policyByte_length hstamp h64 h1] at h
    split at h <;> cases h
    · exact .of_log_eq rfl
    · exact .of_raise (l := .eLen b) nofun rfl
  have hne0 : g.idx.toNat ≠ 0 := fun e => h0 (BitVec.eq_of_toNat_eq e)
  have hne1 : g.idx.toNat ≠ 1 := fun e => h1 (BitVec.eq_of_toNat_eq e)
  rw [policyByte_later hstamp h64 (by omega)] at h
  split at h
  · exact policyFrame_logsNoLos (s := (g.withByte b h64).withIdx 0) h
  · cases h; exact .of_log_eq rfl

/-- The loop raises no E_LOS, accepted frame or not. -/
theorem drain_logsNoLos {x : Policy} {now : Stamp} {q : List Byte} {s t : State} {r : Bool}
    (h : drain (policyByte x now) q s = .ok (t, r)) : LogsNoLos s t :=
  drain_keeps (LogsNoLos s) (fun _ _ hu => hu) (fun _ _ _ _ hu hb => hu.trans (policyByte_logsNoLos hb)) q s t r
    (.of_log_eq rfl) h

/-- R118: the labels of a STEP are those of its bytes, and then E_LOS where it failed past the overall timeout. -/
theorem policyStep_labels {x : Policy} {now : Stamp} {s t : State} (h : policyStep x now s = .ok t) :
    ∃ d, .eLos ∉ d ∧ t.log = s.log ++ d ++
      (if t.out = .stepOk false ∧ policyFrameTo s.cfg x < (now - s.lastFrameMs).toNat then [.eLos] else []) := by
  have hfailed := (policyStep_contract h).failed
  rcases byteStreamStep_ok_cases h with ⟨u, hd, rfl⟩ | ⟨u, hd, hle, rfl⟩ | ⟨u, hd, hlate, rfl⟩ <;>
    obtain ⟨d, hnoLos, hlog⟩ := drain_logsNoLos hd <;> refine ⟨d, hnoLos, ?_⟩
  case inl => rw [if_neg (fun e => nomatch e.1), List.append_nil]; exact hlog
  case inr.inl =>
    obtain ⟨-, -, (hstamp : u.lastFrameMs = s.lastFrameMs)⟩ := hfailed rfl
    have hin : ¬policyFrameTo s.cfg x < (now - s.lastFrameMs).toNat := Nat.not_lt.mpr (hstamp ▸ hle)
    rw [if_neg (hin ·.2), List.append_nil]
    exact hlog
  case inr.inr =>
    obtain ⟨-, -, (hstamp : u.lastFrameMs = s.lastFrameMs)⟩ := hfailed rfl
    have hout : policyFrameTo s.cfg x < (now - s.lastFrameMs).toNat := hstamp ▸ hlate
    rw [if_pos ⟨rfl, hout⟩, ← hlog]
    rfl

/-- Settles O27: one argument for the five policies. -/
theorem lossOfSignalOnlyLabelsFailure : Obligations.LossOfSignalOnlyLabelsFailure := by
  intro now s t
  have labels (x : Policy) (h : ran (policyStep x now s) = .next t) := policyStep_labels (ran_next_iff.mp h)
  exact ⟨labels .sbus, labels .crsf, labels .dsm2, labels .dsmx, labels .fport⟩

end Sys2Proof.Machine
end

section
/-! A whole frame in one STEP (42_framing.md R111 to R116, R119), under every policy: what the loop makes of it from sync
search, and so after a gap that dropped what the framer held (R95). -/

namespace Sys2Proof.Machine

/-! ### The shape of a frame -/

/-- The bytes have the shape that a policy asks of a frame (R120): its header, its length byte and its length. -/
structure WholeFrame (c : Cfg) (x : Policy) (f : List Byte) : Prop where
  header : (policyHeader c x).all (f.getD 0 0 == ·) = true
  lengthByte : (policyLengthOk c x).all (fun ok => ok (f.getD 1 0)) = true
  length : f.length = (policyLengthOf x (f.getD 1 0)).toNat

/-- A frame has a header, a length byte and a byte that completes it, under every policy, and fits into the buffer. -/
theorem WholeFrame.length_bounds {c : Cfg} {x : Policy} {f : List Byte} (hl : c.Legal) (hf : WholeFrame c x f) :
    3 ≤ f.length ∧ f.length ≤ 64 := by
  rw [hf.length]
  cases x with
  | sbus => exact (by decide : 3 ≤ (25#7).toNat ∧ (25#7).toNat ≤ 64)
  | crsf =>
    obtain ⟨h2, -, -, h62⟩ := hl.crsfLen
    obtain ⟨hmin, hmax⟩ := of_decide_eq_true hf.lengthByte
    rw [policyLengthOf, BitVec.toNat_ofNat]
    omega
  | dsm2 => exact (by decide : 3 ≤ (16#7).toNat ∧ (16#7).toNat ≤ 64)
  | dsmx => exact (by decide : 3 ≤ (16#7).toNat ∧ (16#7).toNat ≤ 64)
  | fport => exact (by decide : 3 ≤ (29#7).toNat ∧ (29#7).toNat ≤ 64)

/-- The bytes of a frame by the stage at which they are taken. -/
theorem exists_frame_bytes {f : List Byte} (h : 3 ≤ f.length) : ∃ b0 b1 mid last, f = b0 :: b1 :: (mid ++ [last]) := by
  match f, h with
  | b0 :: b1 :: b2 :: rest, _ =>
    exact ⟨b0, b1, (b2 :: rest).dropLast, (b2 :: rest).getLast (by simp), by rw [List.dropLast_append_getLast]⟩

/-! ### The loop -/

theorem State.withByte_at {s : State} {i : Nat} (hi : s.idx.toNat = i) (b : Byte) (h : i < 64) :
    s.withByte b (hi ▸ h) = s.withFrame (s.buf.set i b h) (s.idx + 1) s.rxq := by
  subst hi
  rfl

/-- The header and the length byte of a frame are stored, and `exp_len` is set. -/
theorem drain_frame_head {x : Policy} {now : Stamp} {b0 b1 : Byte} {q : List Byte} {s : State} (h0 : s.idx = 0)
    (hstamp : s.lastByteMs = now) (hhdr : (policyHeader s.cfg x).all (b0 == ·) = true)
    (hrule : (policyLengthOk s.cfg x).all (fun ok => ok b1) = true) :
    drain (policyByte x now) (b0 :: b1 :: q) s = drain (policyByte x now) q
      ((s.withExpLen (policyExpLen x b1 s.expLen)).withFrame ((s.buf.set 0 b0).set 1 b1) 2 q) := by
  have hb0 : policyByte x now b0 (s.withRxq (b1 :: q)) =
      .ok (s.withFrame (s.buf.set 0 b0) 1 (b1 :: q), .none) := by
    have hi : (s.withRxq (b1 :: q)).idx.toNat = 0 := congrArg BitVec.toNat h0
    refine (policyByte_search (g := s.withRxq (b1 :: q)) hstamp (by omega) h0).trans ((if_pos hhdr).trans ?_)
    rw [State.withByte_at hi b0 (by decide), State.withRxq_idx, h0]
    rfl
  have hb1 : policyByte x now b1 ((s.withFrame (s.buf.set 0 b0) 1 (b1 :: q)).withRxq q) =
      .ok ((s.withExpLen (policyExpLen x b1 s.expLen)).withFrame ((s.buf.set 0 b0).set 1 b1) 2 q, .none) := by
    have hi : (1#7).toNat < 64 := by decide
    exact (policyByte_length (g := (s.withFrame (s.buf.set 0 b0) 1 (b1 :: q)).withRxq q) hstamp hi rfl).trans
      (if_pos hrule)
  rw [drain_goes_on hb0 nofun, drain_goes_on hb1 nofun]

/-- From the third byte on the loop stores up to the end of the frame, and then checks it. -/
theorem drain_frame_tail {x : Policy} {now : Stamp} {n : BitVec 7} (h64 : n.toNat ≤ 64) {mid : List Byte} {last : Byte}
    {more : List Byte} {s r : State} {v : Verdict} (hlen : policyLen s x = n) (h2 : 2 ≤ s.idx.toNat)
    (hend : s.idx.toNat + mid.length + 1 = n.toNat) (hstamp : s.lastByteMs = now)
    (hframe : policyFrame x now (s.withFrame (overlay s.buf s.idx.toNat (mid ++ [last])) 0 more) = .ok (r, v)) :
    drain (policyByte x now) (mid ++ last :: more) s =
      if v = .accept then .ok (r, true) else drain (policyByte x now) more r := by
  refine drain_completes now n.toNat 2 h64 (fun u => policyLen u x = n)
    (fun u q => (policyLen_withRxq u x q).trans) (fun b u h => (policyLen_withByte u x b h).trans)
    ?stores (policyFrame x now) ?completes mid last more s r v h2 hend hstamp hlen hframe
  case stores =>
    intro b u h hge hlt hu hlen
    rw [policyByte_later hu h hge, if_neg]
    intro e
    have hlast : u.idx.toNat + 1 = n.toNat := idx_add_one_toNat h ▸ congrArg BitVec.toNat (e.trans hlen)
    omega
  case completes =>
    intro b u h hlast hu hlen
    have hend : u.idx + 1 = policyLen u x :=
      BitVec.eq_of_toNat_eq ((idx_add_one_toNat h).trans (hlast.trans (congrArg BitVec.toNat hlen.symm)))
    have hn : 3 ≤ n.toNat := by omega
    rw [policyByte_later hu h (by omega), if_pos hend]

/-- A whole frame at the head of the queue, in sync search: the loop checks it in the buffer that its bytes leave, and
ends there or goes on behind it. -/
theorem drain_wholeFrame {x : Policy} {now : Stamp} {f more : List Byte} {s r : State} {v : Verdict}
    (hl : s.cfg.Legal) (h0 : s.idx = 0) (hstamp : s.lastByteMs = now) (hf : WholeFrame s.cfg x f)
    (hframe : policyFrame x now ((s.withExpLen (policyExpLen x (f.getD 1 0) s.expLen)).withFrame
      (frameInto s.buf f) 0 more) = .ok (r, v)) :
    drain (policyByte x now) (f ++ more) s =
      if v = .accept then .ok (r, true) else drain (policyByte x now) more r := by
  obtain ⟨h3, h64⟩ := hf.length_bounds hl
  obtain ⟨b0, b1, mid, last, rfl⟩ := exists_frame_bytes h3
  obtain ⟨hhdr, hrule, hlen⟩ := hf
  simp only [List.getD_cons_zero, List.getD_cons_succ] at hhdr hrule hlen hframe
  rw [List.cons_append, List.cons_append, drain_frame_head h0 hstamp hhdr hrule, List.append_assoc]
  have hidx : (2#7).toNat + mid.length + 1 = (policyLengthOf x b1).toNat := by
    rw [← hlen, List.length_cons, List.length_cons, List.length_append, List.length_singleton,
      show (2#7).toNat = 2 from rfl]
    omega
  have hbuf : overlay ((s.buf.set 0 b0).set 1 b1) 2 (mid ++ [last]) = frameInto s.buf (b0 :: b1 :: (mid ++ [last])) := by
    rw [frameInto_eq_overlay, overlay_cons _ _ _ _ (by decide), overlay_cons _ _ _ _ (by decide)]
  exact drain_frame_tail (hlen ▸ h64) (policyLen_withExpLen s x b1 s.expLen) (Nat.le_refl 2) hidx hstamp
    ((congrArg (fun buf => policyFrame x now (State.withFrame _ buf 0 more)) hbuf).trans hframe)

/-! ### After a gap -/

/-- The frame passes the checks of its policy, wherever it stands from byte 0 on (R116). -/
def FrameAccepted (c : Cfg) (x : Policy) (f : List Byte) : Prop :=
  ∀ (now : Stamp) (s : State), s.cfg = c → (∃ buf, s.buf = frameInto buf f) →
    ∃ t, policyFrame x now s = .ok (t, .accept)

/-- R119: a good frame ends the STEP, with the bytes behind it left queued. -/
theorem policyStep_accepts_frame {x : Policy} {now : Stamp} {f more : List Byte} {s : State} (hl : s.cfg.Legal)
    (h0 : s.idx = 0) (hstamp : s.lastByteMs = now) (hq : s.rxq = f ++ more) (hf : WholeFrame s.cfg x f)
    (hgood : FrameAccepted s.cfg x f) :
    ∃ t, policyStep x now s = .ok t ∧ t.out = .stepOk true ∧ t.rxq = more ∧ t.lastFrameMs = now ∧ t.log = s.log := by
  obtain ⟨r, hr⟩ := hgood now ((s.withExpLen (policyExpLen x (f.getD 1 0) s.expLen)).withFrame
    (frameInto s.buf f) 0 more) (by simp) ⟨s.buf, by simp⟩
  have hdrain := (drain_wholeFrame (more := more) hl h0 hstamp hf hr).trans (if_pos rfl)
  refine ⟨r.withOut (.stepOk true), ?_, rfl, ?_⟩
  · unfold policyStep byteStreamStep
    rw [hq, hdrain]
  · rcases policyFrame_verdict_cases hr with ⟨e, -⟩ | ⟨-, ch, rfl⟩
    · cases e
    · simp

/-- R95, R112: the gap check drops what the framer held, so a whole frame is taken from sync search. -/
theorem policyStep_accepts_after_gap {x : Policy} {now : Stamp} {f more : List Byte} {s : State} (hl : s.cfg.Legal)
    (hidx : s.idx ≠ 0) (hlate : policyByteTo s.cfg x < elapsed now s.lastByteMs) (hq : s.rxq = f ++ more)
    (hf : WholeFrame s.cfg x f) (hgood : FrameAccepted s.cfg x f) :
    ∃ t, policyStep x now s = .ok t ∧ t.out = .stepOk true ∧ t.rxq = more ∧ t.lastFrameMs = now ∧
      t.log = s.log ++ [.eGap s.idx] := by
  have hne : s.rxq ≠ [] := by
    obtain ⟨b0, b1, mid, last, rfl⟩ := exists_frame_bytes (hf.length_bounds hl).1
    rw [hq]
    exact List.cons_ne_nil _ _
  rw [policyStep_gapCheck hne, gapCheck_of_stale hidx hlate]
  exact policyStep_accepts_frame (s := ((s.raise (.eGap s.idx)).withIdx 0).withByteStamp now) hl rfl rfl hq hf hgood

/-! ### Frames that are accepted -/

/-- SBUS.FRAME (R127) accepts a legal footer with clear flag bits. -/
theorem sbusFrame_accepted {c : Cfg} {p : Vector Byte 22} {flags footer : Byte} (hfooter : footer ∈ c.sbusFooters)
    (hflags : flags &&& (c.sbusLostMask ||| c.sbusFsMask) = 0) :
    FrameAccepted c .sbus (0x0F :: (p.toList ++ [flags, footer])) := by
  rintro now s rfl ⟨buf, hbuf⟩
  have h24 : s.buf[24] = footer := by simp [hbuf, frameInto_get]
  have h23 : s.buf[23] = flags := by simp [hbuf, frameInto_get]
  have hclear : sbusFlagged s.cfg flags = false := by simp [sbusFlagged, hflags]
  refine ⟨(s.withCh (unpackChannels (payloadAt s.buf 1))).withFrameStamp now, congrArg Except.ok ?_⟩
  rw [sbusFrame, h24, h23, if_neg (not_not.mpr hfooter), if_neg (by simp [hclear])]

/-- CRSF.FRAME (R137) accepts an RC frame with the checksum of its bytes 1 to 24. -/
theorem crsfFrame_accepted {c : Cfg} {p : Vector Byte 22} :
    FrameAccepted c .crsf
      (c.crsfSync :: 24 :: c.crsfTypeRc :: (p.toList ++ [xorAll (24 :: c.crsfTypeRc :: p.toList)])) := by
  rintro now s rfl ⟨buf, hbuf⟩
  have h1 : s.buf[1] = 24 := by simp [hbuf, frameInto_get]
  have h2 : s.buf[2] = s.cfg.crsfTypeRc := by simp [hbuf, frameInto_get]
  have h25 : s.buf[25] = xorAll (24 :: s.cfg.crsfTypeRc :: p.toList) := by simp [hbuf, frameInto_get]
  have hslice : s.slice 1 24 = 24 :: s.cfg.crsfTypeRc :: p.toList := by
    rw [State.slice, hbuf, frameInto_slice _ _ _ _ (by simp) (by simp)]
    simp
  refine ⟨(s.withCh (unpackChannels (payloadAt s.buf 3))).withFrameStamp now, ?_⟩
  simp [policyFrame, crsfFrame, h1, h2, h25, hslice]

/-- R147: no DSM frame is rejected. -/
theorem dsmFrame_accepted (c : Cfg) (bits : Width) (f : List Byte) : FrameAccepted c (dsmPolicy bits) f := by
  intro now s _ _
  cases bits <;> exact ⟨_, rfl⟩

/-- FPORT.FRAME (R157) accepts an RC frame with the checksum of its payload and the header value at its end. -/
theorem fportFrame_accepted {c : Cfg} {payload : List Byte} (hlen : payload.length = 24) :
    FrameAccepted c .fport
      (c.fportHdr :: c.fportLenByte :: c.fportTypeRc :: (payload ++ [xorAll payload, c.fportHdr])) := by
  rintro now s rfl ⟨buf, hbuf⟩
  have h28 : s.buf[28] = s.cfg.fportHdr := by simp [hbuf, frameInto_get, hlen]
  have h2 : s.buf[2] = s.cfg.fportTypeRc := by simp [hbuf, frameInto_get]
  have h27 : s.buf[27] = xorAll payload := by simp [hbuf, frameInto_get, hlen]
  have hslice : s.slice 3 26 = payload := by
    rw [State.slice, hbuf, frameInto_slice _ _ _ _ (by simp [hlen]) (by simp [hlen])]
    simp [hlen]
  refine ⟨(s.withCh (unpackChannels (payloadAt s.buf 3))).withFrameStamp now, congrArg Except.ok ?_⟩
  rw [fportFrame, h28, h2, h27, hslice, if_neg (not_not.mpr rfl), if_neg (not_not.mpr rfl), if_neg (not_not.mpr rfl)]

/-- Settles O26: each frame has its policy's shape and passes its policy's checks. -/
theorem staleFrameThenGoodFrameAccepted : Obligations.StaleFrameThenGoodFrameAccepted := by
  intro now s p f flags footer x y more hl hidx
  have accepts {pol : Policy} {f : List Byte} (hlate : policyByteTo s.cfg pol < (now - s.lastByteMs).toNat)
      (hq : s.rxq = f ++ more) (hf : WholeFrame s.cfg pol f) (hgood : FrameAccepted s.cfg pol f) :
      ∃ t, ran (policyStep pol now s) = .next t ∧ t.out = .stepOk true ∧ t.rxq = more ∧ t.lastFrameMs = now ∧
        t.log = s.log ++ [.eGap s.idx] := by
    obtain ⟨t, h, ht⟩ := policyStep_accepts_after_gap hl hidx hlate hq hf hgood
    exact ⟨t, ran_next_iff.mpr h, ht⟩
  refine ⟨fun hlate hq hfooter hflags => ?sbus, fun hlate hq => ?crsf, fun hlate hq => ?dsm, fun hlate hq => ?fport⟩
  case sbus =>
    refine accepts (pol := .sbus) hlate (hq.trans (by simp)) ⟨rfl, rfl, ?_⟩
      (sbusFrame_accepted (p := p) hfooter hflags)
    simp [policyLengthOf]
  case crsf =>
    obtain ⟨-, hmin, hmax, -⟩ := hl.crsfLen
    refine accepts (pol := .crsf) hlate (hq.trans (by simp [xorAll])) ⟨?_, ?_, ?_⟩ (crsfFrame_accepted (p := p))
    · simp [policyHeader]
    · simp [policyLengthOk, hmin, hmax]
    · simp [policyLengthOf]
  case dsm =>
    have shape (bits : Width) : WholeFrame s.cfg (dsmPolicy bits) f.toList := by
      cases bits <;> exact ⟨rfl, rfl, by simp [dsmPolicy, policyLengthOf]⟩
    exact ⟨accepts (pol := .dsm2) hlate hq (shape .ten) (dsmFrame_accepted s.cfg .ten _),
      accepts (pol := .dsmx) hlate hq (shape .eleven) (dsmFrame_accepted s.cfg .eleven _)⟩
  case fport =>
    refine accepts (pol := .fport) hlate (hq.trans (by simp [xorAll])) ⟨?_, ?_, ?_⟩
      (fportFrame_accepted (payload := p.toList ++ [x, y]) (by simp))
    · simp [policyHeader]
    · simp [policyLengthOk]
    · simp [policyLengthOf]

end Sys2Proof.Machine
end

section
/-! A byte-stream STEP byte by byte (42_framing.md R111, R117, R119), under every policy. -/

namespace Sys2Proof.Machine

/-- No byte operation reads the result last returned. -/
theorem policyByte_ignoresOut (x : Policy) (now : Stamp) (b : Byte) : IgnoresOut (policyByte x now b) := by
  cases x with
  | sbus => exact sbusByte_ignoresOut b now
  | crsf => exact crsfByte_ignoresOut b now
  | dsm2 => exact dsmByte_ignoresOut b now .ten
  | dsmx => exact dsmByte_ignoresOut b now .eleven
  | fport => exact fportByte_ignoresOut b now

/-- Nor does a STEP. -/
theorem policyStep_withOut (x : Policy) (now : Stamp) (s : State) (o : Output) :
    policyStep x now (s.withOut o) = policyStep x now s :=
  byteStreamStep_withOut (policyByte_ignoresOut x now) _ now s o

/-- No byte operation writes the configuration (R36). -/
theorem policyByte_cfg {x : Policy} {now : Stamp} {b : Byte} {s t : State} {v : Verdict}
    (h : policyByte x now b s = .ok (t, v)) : t.cfg = s.cfg := by
  obtain ⟨-, hcfg, -⟩ := sameWiring_iff.mp (policyByte_onlyFramer h).sameWiring
  exact hcfg

/-- R111, R117, R119: the oldest byte goes to the byte operation; accepted, it ends the STEP, else the STEP goes on from
the state it left. -/
theorem policyStep_cons {x : Policy} {now : Stamp} {b : Byte} {q : List Byte} {s t : State} {v : Verdict}
    (hq : s.rxq = b :: q) (h : policyByte x now b (s.withRxq q) = .ok (t, v)) :
    policyStep x now s = if v = .accept then .ok (t.withOut (.stepOk true)) else policyStep x now t := by
  have hcfg : t.cfg = (s.withRxq q).cfg := policyByte_cfg h
  unfold policyStep
  rw [hcfg, State.withRxq_cfg]
  exact byteStreamStep_cons hq (policyByte_rxq h) h

/-- Settles O60: one argument for the five policies. The state that the BYTE operation answers differs from the one that
the loop goes on from in the result last returned only, which no STEP reads. -/
theorem byteStreamStepTakesBytesInOrder : Obligations.ByteStreamStepTakesBytesInOrder := by
  intro b q now s hq
  have takes (x : Policy) (t : State) (h : ranVerdict (policyByte x now b (s.withRxq q)) = .next t) :
      t.rxq = q ∧
      (t.out = .verdict .accept → ran (policyStep x now s) = .next (t.withOut (.stepOk true))) ∧
      (t.out ≠ .verdict .accept → ran (policyStep x now s) = ran (policyStep x now t)) := by
    obtain ⟨u, v, hbyte, rfl⟩ := ranVerdict_next_iff.mp h
    have hstep := policyStep_cons hq hbyte
    refine ⟨policyByte_rxq hbyte, fun hout => ?accepted, fun hout => ?goesOn⟩
    case accepted =>
      have hv : v = .accept := Output.verdict.inj hout
      rw [hstep, if_pos hv]
      rfl
    case goesOn =>
      have hv : v ≠ .accept := fun e => hout (congrArg Output.verdict e)
      rw [hstep, if_neg hv, policyStep_withOut]
  exact ⟨takes .sbus, takes .crsf, takes .dsm2, takes .dsmx, takes .fport⟩

/-! ### A whole frame -/

/-- R117, R118: a STEP that goes on after an error with nothing queued fails, E_LOS being raised after the error. -/
theorem policyStep_raise_of_empty {x : Policy} {now : Stamp} {s : State} {l : Label} (hq : s.rxq = []) :
    policyStep x now (s.raise l) = .ok
      { s with
        out := .stepOk false
        log := s.log ++ l :: (if policyFrameTo s.cfg x < (now - s.lastFrameMs).toNat then [.eLos] else []) } := by
  rw [policyStep_of_empty (s := s.raise l) hq, State.raise_cfg, State.raise_lastFrameMs, State.raise_log]
  by_cases hlate : policyFrameTo s.cfg x < (now - s.lastFrameMs).toNat
  · rw [if_pos hlate, if_pos hlate, List.append_assoc]
    rfl
  · rw [if_neg hlate, if_neg hlate]
    rfl

/-- A frame operation does not pop the queue, nor write the configuration. -/
theorem policyFrame_keepsQueue (x : Policy) (now : Stamp) : KeepsQueue (policyFrame x now) := by
  intro s t v h
  rcases policyFrame_ok_cases h with ⟨l, rfl⟩ | ⟨ch, -, rfl⟩ <;> exact ⟨rfl, rfl⟩

/-- The state that a frame `f` at the head of the queue is checked in, when it was taken from sync search (R115, R116):
its bytes in the buffer, its length in `exp_len` where the policy takes it from a byte, and `more` left queued. -/
def State.afterFrame (s : State) (x : Policy) (now : Stamp) (f more : List Byte) : State :=
  ((s.withByteStamp now).withExpLen (policyExpLen x (f.getD 1 0) s.expLen)).withFrame (frameInto s.buf f) 0 more

theorem State.afterFrame_rxq (s : State) (x : Policy) (now : Stamp) (f more : List Byte) :
    (s.afterFrame x now f more).rxq = more := by simp [State.afterFrame]

theorem State.afterFrame_cfg (s : State) (x : Policy) (now : Stamp) (f more : List Byte) :
    (s.afterFrame x now f more).cfg = s.cfg := by simp [State.afterFrame]

/-- A whole frame at the head of the queue, in sync search, for a frame that fits into the buffer: the loop checks it in
the buffer that its bytes leave, and ends there or goes on behind it. Unlike drain_wholeFrame, which gets the two bounds
from a legal configuration, this holds for any. -/
theorem drain_fittingFrame {x : Policy} {now : Stamp} {f more : List Byte} {s r : State} {v : Verdict}
    (h3 : 3 ≤ f.length) (h64 : f.length ≤ 64) (h0 : s.idx = 0) (hf : WholeFrame s.cfg x f)
    (hframe : policyFrame x now (s.afterFrame x now f more) = .ok (r, v)) :
    drain (policyByte x now) (f ++ more) (s.withByteStamp now) =
      if v = .accept then .ok (r, true) else drain (policyByte x now) more r := by
  obtain ⟨b0, b1, mid, last, rfl⟩ := exists_frame_bytes h3
  obtain ⟨hheader, hrule, hlength⟩ := hf
  have hend : (2#7).toNat + mid.length + 1 = (policyLengthOf x b1).toNat := by
    simp only [List.getD_cons_succ, List.getD_cons_zero, List.length_cons, List.length_append, List.length_nil]
      at hlength
    rw [← hlength, show (2#7).toNat = 2 from rfl]
    omega
  have hbuf : overlay ((s.buf.set 0 b0).set 1 b1) 2 (mid ++ [last]) = frameInto s.buf (b0 :: b1 :: (mid ++ [last])) := by
    rw [frameInto_eq_overlay, overlay_cons _ _ _ _ (by decide), overlay_cons _ _ _ _ (by decide)]
  have hhead := drain_frame_head (now := now) (b0 := b0) (b1 := b1) (q := mid ++ last :: more)
    (s := s.withByteStamp now) h0 rfl hheader hrule
  rw [State.afterFrame, ← hbuf] at hframe
  rw [show b0 :: b1 :: (mid ++ [last]) ++ more = b0 :: b1 :: (mid ++ last :: more) by simp, hhead]
  exact drain_frame_tail (hlength ▸ h64) (policyLen_withExpLen (s.withByteStamp now) x b1 s.expLen) (Nat.le_refl 2) hend
    rfl hframe

/-- R117, R119: from sync search a whole frame ends the STEP where it is accepted, with the bytes behind it left queued;
else the STEP goes on from the state that the rejection left. -/
theorem policyStep_fittingFrame {x : Policy} {now : Stamp} {f more : List Byte} {s r : State} {v : Verdict}
    (h3 : 3 ≤ f.length) (h64 : f.length ≤ 64) (h0 : s.idx = 0) (hq : s.rxq = f ++ more) (hf : WholeFrame s.cfg x f)
    (hframe : policyFrame x now (s.afterFrame x now f more) = .ok (r, v)) :
    policyStep x now s = if v = .accept then .ok (r.withOut (.stepOk true)) else policyStep x now r := by
  obtain ⟨hrxq, hcfg⟩ := policyFrame_keepsQueue x now _ r v hframe
  rw [State.afterFrame_rxq] at hrxq
  rw [State.afterFrame_cfg] at hcfg
  have hne : s.rxq ≠ [] := by
    intro e
    have hlen := congrArg List.length (hq.symm.trans e)
    rw [List.length_append, List.length_nil] at hlen
    omega
  have hdrain : drain (policyByte x now) s.rxq (s.withByteStamp now) = _ :=
    hq ▸ drain_fittingFrame h3 h64 h0 hf hframe
  rw [policyStep_gapCheck hne, gapCheck_of_search h0]
  by_cases hv : v = .accept
  · rw [if_pos hv] at hdrain ⊢
    unfold policyStep byteStreamStep
    rw [State.withByteStamp_rxq, hdrain]
  · rw [if_neg hv, ← hrxq] at hdrain
    rw [if_neg hv]
    unfold policyStep
    rw [hcfg]
    exact byteStreamStep_of_drain_eq hdrain

end Sys2Proof.Machine
end

section
/-! The SBUS decoder (43_sbus.md R125 to R127). -/

namespace Sys2Proof.Machine

/-! ### SBUS.FRAME -/

/-- R66: a flag byte is bad when the lost or the failsafe bit is set. -/
theorem sbusFlagged_iff {c : Cfg} {flags : Byte} :
    sbusFlagged c flags = true ↔ flags &&& (c.sbusLostMask ||| c.sbusFsMask) ≠ 0 := bne_iff_ne

section

variable {now : Stamp} {s : State}

theorem sbusFrame_of_bad_footer (h : s.buf[24] ∉ s.cfg.sbusFooters) :
    sbusFrame now s = (s.raise (.eFooter s.buf[24]), .reject) := if_pos h

theorem sbusFrame_of_flagged (h : s.buf[24] ∈ s.cfg.sbusFooters)
    (hflags : s.buf[23] &&& (s.cfg.sbusLostMask ||| s.cfg.sbusFsMask) ≠ 0) :
    sbusFrame now s = (s.raise (.eFlags s.buf[23]), .reject) := by
  rw [sbusFrame, if_neg (not_not.mpr h), if_pos (sbusFlagged_iff.mpr hflags)]

theorem sbusFrame_of_good (h : s.buf[24] ∈ s.cfg.sbusFooters)
    (hflags : s.buf[23] &&& (s.cfg.sbusLostMask ||| s.cfg.sbusFsMask) = 0) :
    sbusFrame now s = ((s.withCh (unpackChannels (payloadAt s.buf 1))).withFrameStamp now, .accept) := by
  rw [sbusFrame, if_neg (not_not.mpr h), if_neg (fun e => sbusFlagged_iff.mp e hflags)]

end

/-- Settles O28: the three branches of R127. -/
theorem sbusFrameChecksThenWrites : Obligations.SbusFrameChecksThenWrites := by
  intro now s
  have answers {p : State × Verdict} (h : sbusFrame now s = p) : exec (.sbusFrame now) s = ranVerdict (.ok p) :=
    congrArg (fun p => ranVerdict (.ok p)) h
  refine ⟨fun hfooter => ?footer, fun hfooter hflagged => ?flags, fun hfooter hclear => ?good⟩
  case footer => exact answers (sbusFrame_of_bad_footer hfooter)
  case flags => exact answers (sbusFrame_of_flagged hfooter hflagged)
  case good =>
    exact ⟨_, answers (sbusFrame_of_good hfooter (not_not.mp hclear)), unpackChannels_get _, rfl⟩

/-! ### SBUS.BYTE -/

/-- R126 after the gap check: a byte that is stored is at an index in the buffer, and in sync search it is the header;
the byte at index 24 completes the frame. -/
theorem sbusByte_stored {b : Byte} {now : Stamp} {g : State} (hstamp : g.lastByteMs = now) (h64 : g.idx.toNat < 64)
    (hsync : g.idx = 0 → b = 0x0F) :
    sbusByte b now g =
      if g.idx = 24 then .ok (sbusFrame now ((g.withByte b h64).withIdx 0)) else .ok (g.withByte b h64, .none) := by
  have hnot : ¬(g.idx = 0 ∧ b ≠ 0x0F) := fun ⟨h0, hb⟩ => hb (hsync h0)
  have hlast : g.idx + 1 = 25 ↔ g.idx = 24 := by bv_omega
  simp only [sbusByte, gapCheck_of_same_stamp hstamp, storeByte_of_lt h64, if_neg hnot, State.withByte_idx, hlast]

/-- Settles O29: the state after the gap check is the statement's `g`, and from there R126 has three cases. -/
theorem sbusByteAccumulates : Obligations.SbusByteAccumulates := by
  intro b now s g
  have hstamp : g.lastByteMs = now := gapCheck_lastByteMs _ now s
  have hexec : exec (.sbusByte b now) s = ranVerdict (sbusByte b now g) :=
    congrArg ranVerdict (policyByte_gapCheck .sbus now b s)
  rw [hexec]
  clear_value g
  refine ⟨fun h0 hb => ?discarded, fun h64 hsync h24 => ?stored, fun h24 => ?completed⟩
  case discarded =>
    have h64 : g.idx.toNat < 64 := h0 ▸ (by decide : (0#7).toNat < 64)
    have hbyte : sbusByte b now g = .ok (g.raise (.eSync b), .none) :=
      (policyByte_search (x := .sbus) hstamp h64 h0).trans (if_neg (by simpa [policyHeader] using hb))
    rw [hbyte]
    rfl
  case stored =>
    rw [sbusByte_stored hstamp h64 hsync, if_neg h24]
    rfl
  case completed =>
    have hi : g.idx.toNat = 24 := congrArg BitVec.toNat h24
    have hsync : g.idx = 0 → b = 0x0F := fun h0 => absurd (h24.symm.trans h0) (by decide)
    rw [sbusByte_stored hstamp (hi ▸ by decide) hsync, if_pos h24, State.withByte_at hi b (by decide)]
    rfl

/-! ### A whole frame -/

/-- The 25 bytes of an SBUS frame (R65). -/
abbrev sbusBytes (p : Vector Byte 22) (flags footer : Byte) : List Byte := 0x0F :: (p.toList ++ [flags, footer])

theorem sbusBytes_length (p : Vector Byte 22) (flags footer : Byte) : (sbusBytes p flags footer).length = 25 := by
  simp

theorem sbusBytes_wholeFrame (c : Cfg) (p : Vector Byte 22) (flags footer : Byte) :
    WholeFrame c .sbus (sbusBytes p flags footer) := ⟨rfl, rfl, sbusBytes_length p flags footer⟩

section

variable {now : Stamp} {s : State} {p : Vector Byte 22} {flags footer : Byte} {more : List Byte}

/-- SBUS takes no length from the frame, so only the buffer, the byte stamp and the queue are written. -/
theorem afterFrame_sbus (h0 : s.idx = 0) :
    s.afterFrame .sbus now (sbusBytes p flags footer) more =
      { s with buf := frameInto s.buf (sbusBytes p flags footer), lastByteMs := now, rxq := more } := by
  apply State.ext <;> simp [State.afterFrame, policyExpLen, h0]

/-- SBUS.FRAME (R127) on a whole frame in the buffer, by the frame's own bytes. -/
theorem sbusFrame_frameInto {buf : Vector Byte 64} (hbuf : s.buf = frameInto buf (sbusBytes p flags footer)) :
    sbusFrame now s =
      if footer ∈ s.cfg.sbusFooters ∧ flags &&& (s.cfg.sbusLostMask ||| s.cfg.sbusFsMask) = 0 then
        ((s.withCh (unpackChannels p)).withFrameStamp now, .accept)
      else (s.raise (if footer ∈ s.cfg.sbusFooters then .eFlags flags else .eFooter footer), .reject) := by
  have h24 : s.buf[24] = footer := by simp [hbuf, frameInto_get]
  have h23 : s.buf[23] = flags := by simp [hbuf, frameInto_get]
  have hpayload : payloadAt s.buf 1 = p := hbuf ▸ payloadAt_frameInto buf [0x0F] p [flags, footer] 1 rfl
  by_cases hfooter : footer ∈ s.cfg.sbusFooters
  · by_cases hclear : flags &&& (s.cfg.sbusLostMask ||| s.cfg.sbusFsMask) = 0
    · rw [sbusFrame_of_good (h24 ▸ hfooter) (h23 ▸ hclear), hpayload, if_pos ⟨hfooter, hclear⟩]
    · rw [sbusFrame_of_flagged (h24 ▸ hfooter) (h23 ▸ hclear), h23, if_neg (fun h => hclear h.2), if_pos hfooter]
  · rw [sbusFrame_of_bad_footer (h24 ▸ hfooter), h24, if_neg (fun h => hfooter h.1), if_neg hfooter]

/-- R125 on a whole frame: SBUS.FRAME's verdict ends the STEP or has it go on behind the frame. -/
theorem stepSbus_frame {r : State} {v : Verdict} (h0 : s.idx = 0) (hq : s.rxq = sbusBytes p flags footer ++ more)
    (hframe : sbusFrame now { s with
      buf := frameInto s.buf (sbusBytes p flags footer), lastByteMs := now, rxq := more } = (r, v)) :
    policyStep .sbus now s = if v = .accept then .ok (r.withOut (.stepOk true)) else policyStep .sbus now r := by
  have hlen := sbusBytes_length p flags footer
  refine policyStep_fittingFrame (by omega) (by omega) h0 hq (sbusBytes_wholeFrame s.cfg p flags footer) ?_
  rw [afterFrame_sbus h0]
  exact congrArg Except.ok hframe

end

/-- Settles O30: a good frame ends the STEP; after a rejected one the STEP goes on, and ends with an empty queue when
nothing is behind the frame. -/
theorem sbusFrameInOneStep : Obligations.SbusFrameInOneStep := by
  intro now s p flags footer more h0 hq good full label
  have hqueue : s.rxq = sbusBytes p flags footer ++ more := by simpa using hq
  have hframe : sbusFrame now full = if good then _ else (full.raise label, .reject) :=
    sbusFrame_frameInto (buf := s.buf) rfl
  have goesOn (hbad : ¬good) : policyStep .sbus now s = policyStep .sbus now (full.raise label) :=
    stepSbus_frame h0 hqueue (hframe.trans (if_neg hbad))
  refine ⟨fun hgood => ?accepted, fun hbad => congrArg ran (goesOn hbad), fun hbad hmore => ?nothingBehind⟩
  case accepted =>
    have hstep := stepSbus_frame h0 hqueue (hframe.trans (if_pos hgood))
    exact ⟨_, congrArg ran hstep, unpackChannels_get p, rfl⟩
  case nothingBehind =>
    exact congrArg ran ((goesOn hbad).trans (policyStep_raise_of_empty hmore))

end Sys2Proof.Machine
end

section
/-! The CRSF decoder (44_crsf.md R135 to R139). -/

namespace Sys2Proof.Machine

/-! ### The checksum -/

theorem foldl_xor_inj {a b : Byte} (bs : List Byte) : bs.foldl (· ^^^ ·) a = bs.foldl (· ^^^ ·) b ↔ a = b := by
  induction bs generalizing a b with
  | nil => rfl
  | cons c bs ih => rw [List.foldl_cons, List.foldl_cons, ih, BitVec.xor_left_inj]

/-- R139: a change of one byte changes the running exclusive or. -/
theorem foldl_xor_set_ne {bs : List Byte} {i : Nat} (hi : i < bs.length) {b : Byte} (hb : b ≠ bs[i]) (a : Byte) :
    (bs.set i b).foldl (· ^^^ ·) a ≠ bs.foldl (· ^^^ ·) a := by
  induction bs generalizing i a with
  | nil => cases hi
  | cons c bs ih =>
    cases i with
    | zero => exact fun e => hb ((BitVec.xor_right_inj a).mp ((foldl_xor_inj bs).mp e))
    | succ i => exact ih (Nat.lt_of_succ_lt_succ hi) hb (a ^^^ c)

/-! ### CRSF.FRAME -/

section

variable {now : Stamp} {s : State} (h : s.buf[1].toNat + 1 < 64)

theorem crsfFrame_of_bad_sum (hsum : xorAll (s.slice 1 s.buf[1].toNat) ≠ s.buf[s.buf[1].toNat + 1]) :
    crsfFrame now s = .ok (s.raise .eXor, .reject) := by
  rw [crsfFrame, dif_pos h, if_pos hsum]

theorem crsfFrame_of_other (hsum : xorAll (s.slice 1 s.buf[1].toNat) = s.buf[s.buf[1].toNat + 1])
    (hother : s.buf[2] ≠ s.cfg.crsfTypeRc ∨ s.buf[1] ≠ 24) :
    crsfFrame now s = .ok (s.raise (.eType s.buf[2] (some s.buf[1])), .reject) := by
  rw [crsfFrame, dif_pos h, if_neg (not_not.mpr hsum), if_pos hother]

theorem crsfFrame_of_good (hsum : xorAll (s.slice 1 s.buf[1].toNat) = s.buf[s.buf[1].toNat + 1])
    (htype : s.buf[2] = s.cfg.crsfTypeRc) (hlen : s.buf[1] = 24) :
    crsfFrame now s = .ok ((s.withCh (unpackChannels (payloadAt s.buf 3))).withFrameStamp now, .accept) := by
  rw [crsfFrame, dif_pos h, if_neg (not_not.mpr hsum), if_neg (not_or.mpr ⟨not_not.mpr htype, not_not.mpr hlen⟩)]

end

/-- Settles O31: the three branches of R137. -/
theorem crsfFrameChecksThenWrites : Obligations.CrsfFrameChecksThenWrites := by
  intro now s len sum h
  have hlen : len = 24 ↔ s.buf[1] = 24 := BitVec.toNat_inj (x := s.buf[1]) (y := 24#8)
  have answers {r : Except Fault (State × Verdict)} (e : crsfFrame now s = r) :
      exec (.crsfFrame now) s = ranVerdict r := congrArg ranVerdict e
  refine ⟨fun hsum => ?badSum, fun hsum hother => ?other, fun hsum htype h24 => ?good⟩
  case badSum => exact answers (crsfFrame_of_bad_sum h hsum)
  case other => exact answers (crsfFrame_of_other h hsum (hother.imp_right (mt hlen.mpr)))
  case good => exact ⟨_, answers (crsfFrame_of_good h hsum htype (hlen.mp h24)), unpackChannels_get _, rfl⟩

/-! ### CRSF.BYTE -/

/-- R120: the header of CRSF is the sync byte. -/
theorem crsf_header_iff {c : Cfg} {b : Byte} : (policyHeader c .crsf).all (b == ·) = true ↔ b = c.crsfSync := by
  simp [policyHeader]

/-- R120: the length rule of CRSF is the legal range. -/
theorem crsf_lengthOk_iff {c : Cfg} {b : Byte} :
    (policyLengthOk c .crsf).all (fun ok => ok b) = true ↔ c.crsfLenMin ≤ b.toNat ∧ b.toNat ≤ c.crsfLenMax := by
  simp [policyLengthOk]

/-- Settles O32: the state after the gap check is the statement's `g`, and R136 from there follows its fill index. -/
theorem crsfByteAccumulates : Obligations.CrsfByteAccumulates := by
  intro b now s g
  have hstamp : g.lastByteMs = now := gapCheck_lastByteMs _ now s
  have hcfg : g.cfg = s.cfg := gapCheck_cfg s.cfg.crsfByteTo now s
  have hexec : exec (.crsfByte b now) s = ranVerdict (policyByte .crsf now b g) :=
    congrArg ranVerdict (policyByte_gapCheck .crsf now b s)
  rw [hexec, ← hcfg]
  clear_value g
  have search (h0 : g.idx = 0) :=
    policyByte_search (x := .crsf) (b := b) hstamp (h0 ▸ (by decide : (0#7).toNat < 64)) h0
  have length (h1 : g.idx = 1) :=
    policyByte_length (x := .crsf) (b := b) hstamp (h1 ▸ (by decide : (1#7).toNat < 64)) h1
  refine ⟨fun h0 hb => ?discarded, fun h0 hb => ?sync, fun h1 hb => ?badLength, fun h1 hmin hmax => ?length,
    fun h64 h2 => ⟨fun hmore => ?stored, fun hend => ?completed⟩⟩
  case discarded =>
    rw [search h0, if_neg (mt crsf_header_iff.mp hb)]
    rfl
  case sync =>
    rw [search h0, if_pos (crsf_header_iff.mpr hb),
      State.withByte_at (congrArg BitVec.toNat h0) b (by decide), h0]
    rfl
  case badLength =>
    have hbad : ¬(g.cfg.crsfLenMin ≤ b.toNat ∧ b.toNat ≤ g.cfg.crsfLenMax) := by omega
    rw [length h1, if_neg (mt crsf_lengthOk_iff.mp hbad)]
    rfl
  case length =>
    rw [length h1, if_pos (crsf_lengthOk_iff.mpr ⟨hmin, hmax⟩),
      State.withByte_at (congrArg BitVec.toNat h1) b (by decide), h1]
    rfl
  case stored =>
    rw [policyByte_later (x := .crsf) hstamp h64 h2, if_neg (show g.idx + 1 ≠ policyLen g .crsf from hmore)]
    rfl
  case completed =>
    rw [policyByte_later (x := .crsf) hstamp h64 h2, if_pos (show g.idx + 1 = policyLen g .crsf from hend)]
    rfl

/-! ### A whole frame -/

/-- The bytes of a CRSF frame (R68): the length byte counts the type, the body and the checksum. -/
abbrev crsfFrameBytes (c : Cfg) (len type : Byte) (body : List Byte) (ck : Byte) : List Byte :=
  c.crsfSync :: len :: type :: (body ++ [ck])

section

variable {now : Stamp} {s : State} {len type ck : Byte} {body more : List Byte}
  (hlen : len.toNat = body.length + 2)

include hlen

/-- CRSF takes its length from the frame, so beside the buffer, the byte stamp and the queue `exp_len` is written. -/
theorem afterFrame_crsf (h0 : s.idx = 0) :
    s.afterFrame .crsf now (crsfFrameBytes s.cfg len type body ck) more =
      { s with
        buf := frameInto s.buf (crsfFrameBytes s.cfg len type body ck), expLen := BitVec.ofNat 7 (body.length + 4)
        lastByteMs := now, rxq := more } := by
  apply State.ext <;> simp [State.afterFrame, policyExpLen, policyLengthOf, h0, hlen]

/-- A legal length byte that counts the type, the body and the checksum makes the frame whole (R114, R120). -/
theorem crsfFrameBytes_wholeFrame {c : Cfg} (hl : c.Legal) (hmin : c.crsfLenMin ≤ len.toNat)
    (hmax : len.toNat ≤ c.crsfLenMax) : WholeFrame c .crsf (crsfFrameBytes c len type body ck) where
  header := crsf_header_iff.mpr rfl
  lengthByte := crsf_lengthOk_iff.mpr ⟨hmin, hmax⟩
  length := by
    obtain ⟨-, -, -, h62⟩ := hl.crsfLen
    have hcount : (crsfFrameBytes c len type body ck).length = len.toNat + 2 := by simp [hlen]
    have hexp : (policyLengthOf .crsf len).toNat = len.toNat + 2 :=
      (BitVec.toNat_ofNat _ 7).trans (Nat.mod_eq_of_lt (by omega))
    exact hcount.trans hexp.symm

/-- CRSF.FRAME (R137) on a whole frame in the buffer, by the frame's own bytes. -/
theorem crsfFrame_frameInto (hmax : len.toNat ≤ 62) {buf : Vector Byte 64}
    (hbuf : s.buf = frameInto buf (crsfFrameBytes s.cfg len type body ck)) :
    crsfFrame now s =
      if ck ≠ xorAll (len :: type :: body) then .ok (s.raise .eXor, .reject)
      else if type ≠ s.cfg.crsfTypeRc ∨ len ≠ 24 then .ok (s.raise (.eType type (some len)), .reject)
      else .ok ((s.withCh (unpackChannels (payloadAt s.buf 3))).withFrameStamp now, .accept) := by
  have h1 : s.buf[1] = len := by simp [hbuf, frameInto_get]
  have h2 : s.buf[2] = type := by simp [hbuf, frameInto_get]
  have hck : ∀ h : len.toNat + 1 < 64, s.buf[len.toNat + 1] = ck := by simp [hbuf, frameInto_get, hlen]
  have hslice : s.slice 1 len.toNat = len :: type :: body := by
    rw [State.slice, hbuf, frameInto_slice _ _ _ _ (by simp; omega) (by simp; omega)]
    simp [hlen]
  rw [crsfFrame, dif_pos (h1.symm ▸ (by omega))]
  simp only [h1, h2, hck, hslice, ne_comm]

/-- R135 on a whole frame with a legal length byte, `full` being the state it is checked in: an accepted frame ends the
STEP, and after a rejected one the STEP goes on behind it. -/
theorem stepCrsf_frame (hl : s.cfg.Legal) (h0 : s.idx = 0) (hmin : s.cfg.crsfLenMin ≤ len.toNat)
    (hmax : len.toNat ≤ s.cfg.crsfLenMax) (hq : s.rxq = crsfFrameBytes s.cfg len type body ck ++ more) {full : State}
    (hfull : s.afterFrame .crsf now (crsfFrameBytes s.cfg len type body ck) more = full) :
    policyStep .crsf now s =
      if ck ≠ xorAll (len :: type :: body) then policyStep .crsf now (full.raise .eXor)
      else if type ≠ s.cfg.crsfTypeRc ∨ len ≠ 24 then policyStep .crsf now (full.raise (.eType type (some len)))
      else .ok (((full.withCh (unpackChannels (payloadAt full.buf 3))).withFrameStamp now).withOut (.stepOk true)) := by
  have hwhole := crsfFrameBytes_wholeFrame (type := type) (ck := ck) hlen hl hmin hmax
  obtain ⟨h3, h64⟩ := hwhole.length_bounds hl
  have step {r : State} {v : Verdict} (h : crsfFrame now full = .ok (r, v)) :
      policyStep .crsf now s = if v = .accept then .ok (r.withOut (.stepOk true)) else policyStep .crsf now r :=
    policyStep_fittingFrame h3 h64 h0 hq hwhole (hfull ▸ h)
  obtain ⟨-, -, -, h62⟩ := hl.crsfLen
  have hcfg : full.cfg = s.cfg := hfull ▸ State.afterFrame_cfg s .crsf now _ more
  have hbuf : full.buf = frameInto s.buf (crsfFrameBytes full.cfg len type body ck) := by rw [hcfg, ← hfull]; rfl
  have hframe := crsfFrame_frameInto (now := now) hlen (hmax.trans h62) hbuf
  rw [hcfg] at hframe
  split_ifs at hframe ⊢ <;> exact step hframe

end

/-- R139: under RC channels and their length the checksum alone decides. -/
theorem stepCrsf_rcFrame {now : Stamp} {s full : State} {p : Vector Byte 22} {ck : Byte} {more : List Byte}
    (hl : s.cfg.Legal) (h0 : s.idx = 0) (hq : s.rxq = crsfFrameBytes s.cfg 24 s.cfg.crsfTypeRc p.toList ck ++ more)
    (hfull : s.afterFrame .crsf now (crsfFrameBytes s.cfg 24 s.cfg.crsfTypeRc p.toList ck) more = full) :
    policyStep .crsf now s =
      if ck ≠ xorAll (24 :: s.cfg.crsfTypeRc :: p.toList) then policyStep .crsf now (full.raise .eXor)
      else .ok (((full.withCh (unpackChannels p)).withFrameStamp now).withOut (.stepOk true)) := by
  obtain ⟨-, hmin, hmax, -⟩ := hl.crsfLen
  have hlen : (24 : Byte).toNat = p.toList.length + 2 := by simp
  have hrc : ¬(s.cfg.crsfTypeRc ≠ s.cfg.crsfTypeRc ∨ (24 : Byte) ≠ 24) := by simp
  have hpayload : payloadAt full.buf 3 = p := hfull ▸ payloadAt_frameInto s.buf [_, _, _] p [ck] 3 rfl
  rw [stepCrsf_frame hlen hl h0 hmin hmax hq hfull, if_neg hrc, hpayload]

/-- Settles O33: an accepted frame ends the STEP; after a rejected one the STEP goes on, and ends with an empty queue
when nothing is behind the frame. -/
theorem crsfFrameInOneStep : Obligations.CrsfFrameInOneStep := by
  constructor
  case left =>
    intro now s p q more hl h0 sum bytes full
    have hfull (ck : Byte) : s.afterFrame .crsf now (bytes ck) more = full ck := by
      rw [afterFrame_crsf (by simp) h0, Vector.length_toList]
      rfl
    refine ⟨fun hq => ?accepted, fun ⟨i, b, hb, hpq⟩ hq => ?flipped⟩
    case accepted =>
      have haccepted := (stepCrsf_rcFrame hl h0 hq (hfull _)).trans (if_neg (not_not.mpr rfl))
      exact ⟨_, congrArg ran haccepted, unpackChannels_get p, rfl⟩
    case flipped =>
      have hsum : sum q ≠ sum p := by
        simp only [sum, hpq, Vector.toList_set, List.foldl_cons]
        exact foldl_xor_set_ne _ hb _
      have goesOn := (stepCrsf_rcFrame hl h0 hq (hfull _)).trans (if_pos hsum)
      exact ⟨congrArg ran goesOn, fun hmore => congrArg ran (goesOn.trans (policyStep_raise_of_empty hmore))⟩
  case right =>
    intro now s type body more hl h0 len sum bytes hmin hmax hother hq
    obtain ⟨-, -, -, h62⟩ := hl.crsfLen
    have hlen : (BitVec.ofNat 8 len).toNat = len := by rw [BitVec.toNat_ofNat]; omega
    have h24 : len ≠ 24 → BitVec.ofNat 8 len ≠ 24 := mt fun e => hlen.symm.trans (congrArg BitVec.toNat e)
    have hstep := stepCrsf_frame (now := now) hlen hl h0 (hlen.symm ▸ hmin) (hlen.symm ▸ hmax) hq
      (afterFrame_crsf hlen h0)
    exact congrArg ran (hstep.trans ((if_neg (not_not.mpr rfl)).trans (if_pos (hother.imp_right h24))))

end Sys2Proof.Machine
end

section
/-! The DSM2 / DSMX decoder (45_dsm.md R145 to R149). -/

namespace Sys2Proof.Machine

/-! ### The fields of a slot -/

/-- R71: the index bits of a slot as a number. -/
theorem dsmChannel_eleven_toNat (v : Half) : (dsmChannel v .eleven).toNat = v.toNat / 2048 % 16 := by
  rw [dsmChannel, BitVec.extractLsb'_toNat, Nat.shiftRight_eq_div_pow]

theorem dsmChannel_ten_toNat (v : Half) : (dsmChannel v .ten).toNat = v.toNat / 1024 % 16 := by
  rw [dsmChannel, BitVec.extractLsb'_toNat, Nat.shiftRight_eq_div_pow]

/-- What a slot writes (R148): its value bits, rescaled. -/
def dsmValue (v : Half) : Width → Half
  | .eleven => normU11 (dsmRaw11 v)
  | .ten => normU10 (dsmRaw10 v)

/-- R71: the value bits of a slot as a number. -/
theorem dsmValue_eleven (v : Half) : dsmValue v .eleven = normU11 (BitVec.ofNat 11 (v.toNat % 2048)) := by
  rw [dsmValue, dsmRaw11, BitVec.extractLsb', Nat.shiftRight_zero]
  exact congrArg normU11 (BitVec.eq_of_toNat_eq (by simp))

theorem dsmValue_ten (v : Half) : dsmValue v .ten = normU10 (BitVec.ofNat 10 (v.toNat % 1024)) := by
  rw [dsmValue, dsmRaw10, BitVec.extractLsb', Nat.shiftRight_zero]
  exact congrArg normU10 (BitVec.eq_of_toNat_eq (by simp))

/-- R41, R70: a slot is a big-endian pair of bytes. -/
theorem dsmSlot_eq (buf : Vector Byte 64) (p : Fin 8) :
    dsmSlot buf p = BitVec.ofNat 16 (buf[2 * p.val].toNat * 256 + buf[2 * p.val + 1].toNat) := by
  apply BitVec.eq_of_toNat_eq
  rw [dsmSlot, BitVec.toNat_append, ← Nat.shiftLeft_add_eq_or_of_lt (BitVec.isLt _), Nat.shiftLeft_eq,
    BitVec.toNat_ofNat]
  exact (Nat.mod_eq_of_lt (by omega)).symm

/-! ### DSM.PAIR -/

/-- R148: any slot value but 0xFFFF is rescaled into one channel. -/
theorem dsmPair_of_used {v : Half} (hv : v ≠ 0xFFFF) (bits : Width) (ch : Vector Half 16) :
    dsmPair v bits ch = ch.set (dsmChannel v bits).toNat (dsmValue v bits) (dsmChannel v bits).isLt :=
  (if_neg hv).trans (by cases bits <;> rfl)

theorem dsmPair_of_unused (bits : Width) (ch : Vector Half 16) : dsmPair 0xFFFF bits ch = ch := if_pos rfl

/-- R148: the channel written is the one the index bits name; the others keep their value. -/
theorem dsmPair_get {v : Half} (hv : v ≠ 0xFFFF) (bits : Width) (ch : Vector Half 16) (k : Fin 16) :
    (dsmPair v bits ch)[k] = if k.val = (dsmChannel v bits).toNat then dsmValue v bits else ch[k] := by
  simp only [dsmPair_of_used hv, Fin.getElem_fin, Vector.getElem_set, eq_comm]

theorem exec_dsmPair (v : Half) (bits : Width) (s : State) :
    exec (.dsmPair v bits) s = .next (s.withCh (dsmPair v bits s.ch)) := rfl

/-- Settles O34: the two widths differ in the fields of a slot only. -/
theorem dsmPairWritesNamedChannel : Obligations.DsmPairWritesNamedChannel := by
  intro v s
  have writes (bits : Width) (hv : v ≠ 0xFFFF) : ∃ t, exec (.dsmPair v bits) s = .next t ∧ t = { s with ch := t.ch } ∧
      ∀ i : Fin 16, t.ch[i] = if i.val = (dsmChannel v bits).toNat then dsmValue v bits else s.ch[i] :=
    ⟨_, exec_dsmPair v bits s, rfl, dsmPair_get hv bits s.ch⟩
  refine ⟨fun hv bits => ?unused, fun hv => ?eleven, fun hv => ?ten⟩
  case unused =>
    rw [exec_dsmPair, hv, dsmPair_of_unused]
    rfl
  case eleven =>
    rw [← dsmChannel_eleven_toNat, ← dsmValue_eleven]
    exact writes .eleven hv
  case ten =>
    rw [← dsmChannel_ten_toNat, ← dsmValue_ten]
    exact writes .ten hv

/-! ### DSM.FRAME -/

/-- The slot value writes no channel `k` (R148): it is unused, or its index bits name another one. -/
def DsmSkips (bits : Width) (k : Fin 16) (v : Half) : Prop := v = 0xFFFF ∨ (dsmChannel v bits).toNat ≠ k.val

theorem dsmPair_get_of_skips {bits : Width} {k : Fin 16} {v : Half} (h : DsmSkips bits k v) (ch : Vector Half 16) :
    (dsmPair v bits ch)[k] = ch[k] := by
  by_cases hv : v = 0xFFFF
  · rw [hv, dsmPair_of_unused]
  · rw [dsmPair_get hv, if_neg fun e => h.elim hv fun hk => hk e.symm]

/-- R147: a channel that no slot names keeps its value. -/
theorem foldl_dsmPair_get_of_skips {bits : Width} {k : Fin 16} {vs : List Half} (h : ∀ v ∈ vs, DsmSkips bits k v)
    (ch : Vector Half 16) : (vs.foldl (fun ch v => dsmPair v bits ch) ch)[k] = ch[k] := by
  induction vs generalizing ch with
  | nil => rfl
  | cons v vs ih =>
    obtain ⟨hv, hvs⟩ := List.forall_mem_cons.mp h
    rw [List.foldl_cons, ih hvs, dsmPair_get_of_skips hv]

/-- R147: of the slots that name a channel the last one wins. -/
theorem foldl_dsmPair_get_of_last {bits : Width} {k : Fin 16} {v : Half} {after : List Half} (hv : v ≠ 0xFFFF)
    (hk : (dsmChannel v bits).toNat = k.val) (h : ∀ w ∈ after, DsmSkips bits k w) (before : List Half)
    (ch : Vector Half 16) :
    ((before ++ v :: after).foldl (fun ch v => dsmPair v bits ch) ch)[k] = dsmValue v bits := by
  rw [List.foldl_append, List.foldl_cons, foldl_dsmPair_get_of_skips h, dsmPair_get hv, if_pos hk.symm]

/-- R147: the slots that DSM.FRAME unpacks are the pairs from byte 2 on. -/
theorem dsmSlots_eq_ofFn (buf : Vector Byte 64) :
    dsmSlots buf =
      List.ofFn fun i : Fin 7 => BitVec.ofNat 16 (buf[2 * i.val + 2].toNat * 256 + buf[2 * i.val + 3].toNat) := by
  simp only [dsmSlots, List.map_cons, List.map_nil, dsmSlot_eq]
  rfl

theorem exec_dsmFrame (now : Stamp) (bits : Width) (s : State) :
    exec (.dsmFrame now bits) s = .next ((dsmFrame now bits s).1.withOut (.verdict .accept)) := rfl

/-- A list of values given by index, cut at one of them. -/
theorem exists_ofFn_cut {α : Type} {n : Nat} (f : Fin n → α) (i : Fin n) :
    ∃ before after, List.ofFn f = before ++ f i :: after ∧ ∀ w ∈ after, ∃ j, i < j ∧ w = f j := by
  refine ⟨(List.ofFn f).take i, (List.ofFn f).drop (i + 1), ?cut, ?after⟩
  case cut =>
    conv_lhs => rw [← List.take_append_drop i (List.ofFn f)]
    rw [List.drop_eq_getElem_cons (by simp), List.getElem_ofFn]
  case after =>
    intro w hw
    obtain ⟨m, hm, rfl⟩ := List.getElem_of_mem hw
    rw [List.length_drop, List.length_ofFn] at hm
    have hlt : i.val < i.val + 1 + m := by omega
    exact ⟨⟨i + 1 + m, by omega⟩, hlt, by simp⟩

/-- Settles O35: the channels are the fold of R147 over the statement's slots, in their order. -/
theorem dsmFrameWritesSlotsInOrder : Obligations.DsmFrameWritesSlotsInOrder := by
  intro now bits s slot chan
  have hexec : exec (.dsmFrame now bits) s = .next
      { s with
        ch := (List.ofFn slot).foldl (fun ch v => dsmPair v bits ch) s.ch
        lastFrameMs := now, out := .verdict .accept } := by
    rw [exec_dsmFrame, dsmFrame, dsmSlots_eq_ofFn]
    rfl
  have hchan (v : Half) : chan v = (dsmChannel v bits).toNat := by
    cases bits with
    | ten => exact (dsmChannel_ten_toNat v).symm
    | eleven => exact (dsmChannel_eleven_toNat v).symm
  have hskips {v : Half} {k : Fin 16} (h : v = 0xFFFF ∨ chan v ≠ k.val) : DsmSkips bits k v :=
    h.imp_right (mt (hchan v).trans)
  refine ⟨_, hexec, rfl, fun k => ⟨fun hskip => ?kept, fun i hused hnamed hlast => ?written⟩⟩
  case kept =>
    exact foldl_dsmPair_get_of_skips (List.forall_mem_ofFn_iff.mpr fun i => hskips (hskip i)) s.ch
  case written =>
    obtain ⟨before, after, hcut, hafter⟩ := exists_ofFn_cut slot i
    have hskipped (w : Half) (hw : w ∈ after) : DsmSkips bits k w := by
      obtain ⟨j, hj, rfl⟩ := hafter w hw
      exact hskips (hlast j hj)
    have hwins := foldl_dsmPair_get_of_last hused ((hchan _).symm.trans hnamed) hskipped before s.ch
    rw [← hcut] at hwins
    cases bits with
    | ten => exact hwins.trans (dsmValue_ten _)
    | eleven => exact hwins.trans (dsmValue_eleven _)

/-! ### DSM.BYTE -/

/-- R146 after the gap check: every byte is stored, and the byte at index 15 completes the frame. -/
theorem dsmByte_stored {b : Byte} {now : Stamp} {bits : Width} {g : State} (hstamp : g.lastByteMs = now)
    (h64 : g.idx.toNat < 64) :
    dsmByte b now bits g =
      if g.idx = 15 then .ok (dsmFrame now bits ((g.withByte b h64).withIdx 0)) else .ok (g.withByte b h64, .none) := by
  have hlast : g.idx + 1 = 16 ↔ g.idx = 15 := by bv_omega
  simp only [dsmByte, gapCheck_of_same_stamp hstamp, storeByte_of_lt h64, State.withByte_idx, hlast]

/-- A byte may be taken from the state after the gap check. -/
theorem dsmByte_gapCheck (b : Byte) (now : Stamp) (bits : Width) (s : State) :
    dsmByte b now bits s = dsmByte b now bits (gapCheck s.cfg.dsmByteTo now s) := by
  have hto : policyByteTo s.cfg (dsmPolicy bits) = s.cfg.dsmByteTo := by cases bits <;> rfl
  rw [dsmByte_eq, policyByte_gapCheck, ← dsmByte_eq, hto]

/-- Settles O36: the state after the gap check is the statement's `g`, and from there R146 has two cases. -/
theorem dsmByteAccumulates : Obligations.DsmByteAccumulates := by
  intro b now bits s g
  have hstamp : g.lastByteMs = now := gapCheck_lastByteMs _ now s
  have hexec : exec (.dsmByte b now bits) s = ranVerdict (dsmByte b now bits g) :=
    congrArg ranVerdict (dsmByte_gapCheck b now bits s)
  rw [hexec]
  clear_value g
  refine ⟨fun h64 h15 => ?stored, fun h15 => ?completed⟩
  case stored =>
    rw [dsmByte_stored hstamp h64, if_neg h15]
    rfl
  case completed =>
    have hi : g.idx.toNat = 15 := congrArg BitVec.toNat h15
    rw [dsmByte_stored hstamp (hi ▸ by decide), if_pos h15, State.withByte_at hi b (by decide)]
    rfl

/-! ### A whole frame -/

/-- R70, R120: any sixteen bytes have the shape of a DSM frame. -/
theorem dsm_wholeFrame (c : Cfg) (bits : Width) (f : Vector Byte 16) : WholeFrame c (dsmPolicy bits) f.toList := by
  cases bits <;> exact ⟨rfl, rfl, f.length_toList⟩

/-- DSM takes no length from the frame, so only the buffer, the byte stamp and the queue are written. -/
theorem afterFrame_dsm {s : State} (h0 : s.idx = 0) (bits : Width) (now : Stamp) (f more : List Byte) :
    s.afterFrame (dsmPolicy bits) now f more = { s with buf := frameInto s.buf f, lastByteMs := now, rxq := more } := by
  cases bits <;> apply State.ext <;> simp [State.afterFrame, policyExpLen, dsmPolicy, h0]

/-- Settles O37: the frame is accepted under either width, and DSM.FRAME returns the same state with its verdict. -/
theorem dsmAnySixteenBytesAreAFrame : Obligations.DsmAnySixteenBytesAreAFrame := by
  intro now s f more h0 hq full
  have takes (bits : Width) : ∃ t, ran (policyStep (dsmPolicy bits) now s) = .next { t with out := .stepOk true } ∧
      exec (.dsmFrame now bits) full = .next t := by
    have hlen : f.toList.length = 16 := f.length_toList
    have hframe : policyFrame (dsmPolicy bits) now full = .ok (dsmFrame now bits full) := by cases bits <;> rfl
    have hstep := policyStep_fittingFrame (by omega) (by omega) h0 hq (dsm_wholeFrame s.cfg bits f)
      ((congrArg _ (afterFrame_dsm h0 bits now f.toList more)).trans hframe)
    exact ⟨(dsmFrame now bits full).1.withOut (.verdict .accept), congrArg ran hstep, exec_dsmFrame now bits full⟩
  exact ⟨takes .ten, takes .eleven⟩

end Sys2Proof.Machine
end

section
/-! The FPORT decoder (46_fport.md R155 to R158). -/

namespace Sys2Proof.Machine

/-! ### FPORT.FRAME -/

section

variable {now : Stamp} {s : State}

theorem fportFrame_of_bad_terminator (hterm : s.buf[28] ≠ s.cfg.fportHdr) :
    fportFrame now s = (s.raise (.eTerm s.buf[28]), .reject) := if_pos hterm

theorem fportFrame_of_other_type (hterm : s.buf[28] = s.cfg.fportHdr) (htype : s.buf[2] ≠ s.cfg.fportTypeRc) :
    fportFrame now s = (s.raise (.eType s.buf[2] none), .reject) := by
  rw [fportFrame, if_neg (not_not.mpr hterm), if_pos htype]

theorem fportFrame_of_bad_sum (hterm : s.buf[28] = s.cfg.fportHdr) (htype : s.buf[2] = s.cfg.fportTypeRc)
    (hsum : xorAll (s.slice 3 26) ≠ s.buf[27]) : fportFrame now s = (s.raise .eXor, .reject) := by
  rw [fportFrame, if_neg (not_not.mpr hterm), if_neg (not_not.mpr htype), if_pos hsum]

theorem fportFrame_of_good (hterm : s.buf[28] = s.cfg.fportHdr) (htype : s.buf[2] = s.cfg.fportTypeRc)
    (hsum : xorAll (s.slice 3 26) = s.buf[27]) :
    fportFrame now s = ((s.withCh (unpackChannels (payloadAt s.buf 3))).withFrameStamp now, .accept) := by
  rw [fportFrame, if_neg (not_not.mpr hterm), if_neg (not_not.mpr htype), if_neg (not_not.mpr hsum)]

end

/-- Settles O38: the four branches of R157. -/
theorem fportFrameChecksThenWrites : Obligations.FportFrameChecksThenWrites := by
  intro now s sum
  have answers {p : State × Verdict} (h : fportFrame now s = p) : exec (.fportFrame now) s = ranVerdict (.ok p) :=
    congrArg (fun p => ranVerdict (.ok p)) h
  refine ⟨fun hterm => ?terminator, fun hterm htype => ?type, fun hterm htype hsum => ?sum,
    fun hterm htype hsum => ?good⟩
  case terminator => exact answers (fportFrame_of_bad_terminator hterm)
  case type => exact answers (fportFrame_of_other_type hterm htype)
  case sum => exact answers (fportFrame_of_bad_sum hterm htype hsum)
  case good => exact ⟨_, answers (fportFrame_of_good hterm htype hsum), unpackChannels_get _, rfl⟩

/-! ### FPORT.BYTE -/

/-- R120: the header of FPORT is the header value. -/
theorem fport_header_iff {c : Cfg} {b : Byte} : (policyHeader c .fport).all (b == ·) = true ↔ b = c.fportHdr := by
  simp [policyHeader]

/-- R120: the length rule of FPORT is the fixed length byte. -/
theorem fport_lengthOk_iff {c : Cfg} {b : Byte} :
    (policyLengthOk c .fport).all (fun ok => ok b) = true ↔ b = c.fportLenByte := by
  simp [policyLengthOk]

/-- R156: the byte at index 28 completes the 29 bytes of a frame. -/
theorem fport_completes_iff {g : State} : g.idx + 1 = policyLen g .fport ↔ g.idx = 28 := by
  rw [show policyLen g .fport = 29 from rfl]
  bv_omega

/-- Settles O39: the state after the gap check is the statement's `g`, and R156 from there follows its fill index. -/
theorem fportByteAccumulates : Obligations.FportByteAccumulates := by
  intro b now s g
  have hstamp : g.lastByteMs = now := gapCheck_lastByteMs _ now s
  have hcfg : g.cfg = s.cfg := gapCheck_cfg s.cfg.fportByteTo now s
  have hexec : exec (.fportByte b now) s = ranVerdict (policyByte .fport now b g) :=
    congrArg ranVerdict (policyByte_gapCheck .fport now b s)
  rw [hexec, ← hcfg]
  clear_value g
  have search (h0 : g.idx = 0) :=
    policyByte_search (x := .fport) (b := b) hstamp (h0 ▸ (by decide : (0#7).toNat < 64)) h0
  have length (h1 : g.idx = 1) :=
    policyByte_length (x := .fport) (b := b) hstamp (h1 ▸ (by decide : (1#7).toNat < 64)) h1
  have later (h64 : g.idx.toNat < 64) (h2 : 2 ≤ g.idx.toNat) := policyByte_later (x := .fport) (b := b) hstamp h64 h2
  refine ⟨fun h0 hb => ?discarded, fun h0 hb => ?header, fun h1 hb => ?badLength, fun h1 hb => ?length,
    fun h64 h2 h28 => ?stored, fun h28 => ?completed⟩
  case discarded =>
    rw [search h0, if_neg (mt fport_header_iff.mp hb)]
    rfl
  case header =>
    rw [search h0, if_pos (fport_header_iff.mpr hb), State.withByte_at (congrArg BitVec.toNat h0) b (by decide), h0]
    rfl
  case badLength =>
    rw [length h1, if_neg (mt fport_lengthOk_iff.mp hb)]
    rfl
  case length =>
    rw [length h1, if_pos (fport_lengthOk_iff.mpr hb), State.withByte_at (congrArg BitVec.toNat h1) b (by decide), h1]
    rfl
  case stored =>
    rw [later h64 h2, if_neg (mt fport_completes_iff.mp h28)]
    rfl
  case completed =>
    have hi : g.idx.toNat = 28 := congrArg BitVec.toNat h28
    rw [later (hi ▸ by decide) (hi ▸ by decide), if_pos (fport_completes_iff.mpr h28),
      State.withByte_at hi b (by decide)]
    rfl

/-! ### A whole frame -/

/-- The 29 bytes of an FPORT frame (R72), with the checksum `ck` and with `term` where the header value is due again. -/
abbrev fportFrameBytes (c : Cfg) (type : Byte) (p : Vector Byte 22) (x y ck term : Byte) : List Byte :=
  c.fportHdr :: c.fportLenByte :: type :: (p.toList ++ [x, y, ck, term])

section

variable {now : Stamp} {s : State} {type x y ck term : Byte} {p : Vector Byte 22} {more : List Byte}

theorem fportFrameBytes_length (c : Cfg) : (fportFrameBytes c type p x y ck term).length = 29 := by simp

theorem fportFrameBytes_wholeFrame (c : Cfg) : WholeFrame c .fport (fportFrameBytes c type p x y ck term) where
  header := fport_header_iff.mpr rfl
  lengthByte := fport_lengthOk_iff.mpr rfl
  length := fportFrameBytes_length c

/-- FPORT's length byte sets `exp_len` to 29, beside the buffer, the byte stamp and the queue. -/
theorem afterFrame_fport (h0 : s.idx = 0) :
    s.afterFrame .fport now (fportFrameBytes s.cfg type p x y ck term) more =
      { s with
        buf := frameInto s.buf (fportFrameBytes s.cfg type p x y ck term), expLen := 29, lastByteMs := now
        rxq := more } := by
  apply State.ext <;> simp [State.afterFrame, policyExpLen, policyLengthOf, h0]

/-- FPORT.FRAME (R157) on a whole frame in the buffer, by the frame's own bytes. -/
theorem fportFrame_frameInto {buf : Vector Byte 64}
    (hbuf : s.buf = frameInto buf (fportFrameBytes s.cfg type p x y ck term)) :
    fportFrame now s =
      if term = s.cfg.fportHdr ∧ type = s.cfg.fportTypeRc ∧ ck = xorAll (p.toList ++ [x, y]) then
        ((s.withCh (unpackChannels p)).withFrameStamp now, .accept)
      else (s.raise (if term ≠ s.cfg.fportHdr then .eTerm term
        else if type ≠ s.cfg.fportTypeRc then .eType type none else .eXor), .reject) := by
  have h28 : s.buf[28] = term := by simp [hbuf, frameInto_get]
  have h2 : s.buf[2] = type := by simp [hbuf, frameInto_get]
  have h27 : s.buf[27] = ck := by simp [hbuf, frameInto_get]
  have hpayload : payloadAt s.buf 3 = p := hbuf ▸ payloadAt_frameInto buf [_, _, _] p [x, y, ck, term] 3 rfl
  have hslice : s.slice 3 26 = p.toList ++ [x, y] := by
    rw [State.slice, hbuf, frameInto_slice _ _ _ _ (by simp) (by simp)]
    simp [List.take_append]
  by_cases hterm : term = s.cfg.fportHdr
  case neg => rw [fportFrame_of_bad_terminator (h28 ▸ hterm), h28, if_neg (fun ⟨h, _⟩ => hterm h), if_pos hterm]
  by_cases htype : type = s.cfg.fportTypeRc
  case neg =>
    rw [fportFrame_of_other_type (h28.trans hterm) (h2 ▸ htype), h2, if_neg (fun ⟨_, h, _⟩ => htype h),
      if_neg (not_not.mpr hterm), if_pos htype]
  by_cases hsum : ck = xorAll (p.toList ++ [x, y])
  case neg =>
    rw [fportFrame_of_bad_sum (h28.trans hterm) (h2.trans htype) (hslice ▸ h27 ▸ Ne.symm hsum),
      if_neg (fun ⟨_, _, h⟩ => hsum h), if_neg (not_not.mpr hterm), if_neg (not_not.mpr htype)]
  case pos =>
    rw [fportFrame_of_good (h28.trans hterm) (h2.trans htype) (hslice ▸ h27 ▸ hsum.symm), hpayload,
      if_pos ⟨hterm, htype, hsum⟩]

/-- R155 on a whole frame: FPORT.FRAME's verdict ends the STEP or has it go on behind the frame. -/
theorem stepFport_frame {r : State} {v : Verdict} (h0 : s.idx = 0)
    (hq : s.rxq = fportFrameBytes s.cfg type p x y ck term ++ more)
    (hframe : fportFrame now { s with
      buf := frameInto s.buf (fportFrameBytes s.cfg type p x y ck term), expLen := 29, lastByteMs := now
      rxq := more } = (r, v)) :
    policyStep .fport now s = if v = .accept then .ok (r.withOut (.stepOk true)) else policyStep .fport now r := by
  have hlen : (fportFrameBytes s.cfg type p x y ck term).length = 29 := fportFrameBytes_length s.cfg
  refine policyStep_fittingFrame (by omega) (by omega) h0 hq (fportFrameBytes_wholeFrame s.cfg) ?_
  rw [afterFrame_fport h0]
  exact congrArg Except.ok hframe

end

/-- Settles O40: a good frame ends the STEP; after a rejected one the STEP goes on, and ends with an empty queue when
nothing is behind the frame. -/
theorem fportFrameInOneStep : Obligations.FportFrameInOneStep := by
  intro now s type p x y ck term more h0 sum bytes good full label hq
  have hframe : fportFrame now full = if good then _ else (full.raise label, .reject) :=
    fportFrame_frameInto (buf := s.buf) rfl
  have goesOn (hbad : ¬good) : policyStep .fport now s = policyStep .fport now (full.raise label) :=
    stepFport_frame h0 hq (hframe.trans (if_neg hbad))
  refine ⟨fun hgood => ?accepted, fun hbad => congrArg ran (goesOn hbad), fun hbad hmore => ?nothingBehind⟩
  case accepted =>
    have hstep := stepFport_frame h0 hq (hframe.trans (if_pos hgood))
    exact ⟨_, congrArg ran hstep, unpackChannels_get p, rfl⟩
  case nothingBehind =>
    exact congrArg ran ((goesOn hbad).trans (policyStep_raise_of_empty hmore))

end Sys2Proof.Machine
end

section
/-! The edge handler (47_ppm.md R166 to R171): the arm that an edge runs, and what each arm does. -/

namespace Sys2Proof.Machine

/-! ### The arms -/

/-- Settles O41: both arms append one label. -/
theorem noiseAndGapOnlyLabel : Obligations.NoiseAndGapOnlyLabel := fun _ _ => ⟨rfl, rfl⟩

theorem exec_edgeSyncAcc (w tms : Stamp) (s : State) : exec (.edgeSyncAcc w tms) s = ran (edgeSyncAcc tms s) := rfl

theorem exec_edgeSyncRej (w : Stamp) (s : State) : exec (.edgeSyncRej w) s = .next (edgeSyncRej s) := rfl

theorem exec_edgeChan (w : Stamp) (s : State) : exec (.edgeChan w) s = .next (edgeChan w s) := rfl

/-- A count that lies in the bank is latched (R168). -/
theorem edgeSyncAcc_total (tms : Stamp) {s : State} (h : s.ppmIdx.toNat ≤ 16) : ∃ t, edgeSyncAcc tms s = .ok t :=
  ⟨_, if_pos h⟩

/-- Settles O42: the latch bank is the copy of the first pulses. -/
theorem syncAcceptLatchesFrame : Obligations.SyncAcceptLatchesFrame := by
  intro w tms s h
  obtain ⟨t, ht⟩ := edgeSyncAcc_total tms h
  obtain ⟨-, rfl⟩ := edgeSyncAcc_ok ht
  exact ⟨_, ran_next_iff.mpr ht, copyFirst_get _ _ _, rfl⟩

/-- The counter of missed frames saturates (R169). -/
theorem edgeSyncRej_missed_toNat (s : State) : (edgeSyncRej s).missed.toNat = min (s.missed.toNat + 1) 255 := by
  show (if s.missed = 255 then 255 else s.missed + 1 : BitVec 8).toNat = _
  split
  case isTrue h => simp [h]
  case isFalse h => bv_omega

/-- Settles O43. -/
theorem syncRejectCountsMissed : Obligations.SyncRejectCountsMissed := fun w s =>
  ⟨edgeSyncRej s, exec_edgeSyncRej w s, edgeSyncRej_missed_toNat s, rfl⟩

theorem edgeChan_of_lt (w : Stamp) {s : State} (h : s.ppmIdx.toNat < 16) :
    edgeChan w s = { s with pw := s.pw.set s.ppmIdx.toNat (w.setWidth 16) h, ppmIdx := s.ppmIdx + 1 } := dif_pos h

theorem edgeChan_of_ge (w : Stamp) {s : State} (h : 16 ≤ s.ppmIdx.toNat) : edgeChan w s = s := dif_neg (by omega)

/-- Settles O44: below 16 the index has room for one more. -/
theorem channelPulseIsStored : Obligations.ChannelPulseIsStored := by
  intro w s
  refine ⟨fun h => ⟨edgeChan w s, exec_edgeChan w s, ?_, ?_⟩, fun h => ?_⟩
  · rw [edgeChan_of_lt w h]
    show (s.ppmIdx + 1).toNat = _
    bv_omega
  · rw [edgeChan_of_lt w h, BitVec.ofNat_toNat]
  · rw [exec_edgeChan, edgeChan_of_ge w h]

/-! ### The dispatch -/

/-- The arm of a width runs the handler's part for it (R166, R64). -/
theorem exec_edgeArm (w tms : Stamp) (s : State) :
    exec (s.cfg.edgeArm w tms s.ppmIdx) s = ran (edgeClassified w tms s) := by
  unfold edgeClassified Cfg.edgeArm
  cases s.cfg.classify w with
  | noise => rfl
  | sync => dsimp only; split_ifs <;> rfl
  | chan => rfl
  | gap => rfl

/-- R166: under PPM the edge's width is measured and its class handled, on the stamped state. -/
theorem edge_of_ppm {s : State} (t : Nat) (h : s.cfg.proto s.psel = .ppm) :
    edge t s = edgeClassified (tUs t - s.lastEdgeUs) (tMs t) (s.withEdgeStamp (tUs t)) :=
  if_pos (decide_eq_true h)

/-- R166: under PPM an edge is the arm that its width and the pulse count name, on the stamped state. -/
theorem exec_edge_of_ppm {s : State} (t : Nat) (h : s.cfg.proto s.psel = .ppm) :
    exec (.edge t) s = exec (s.cfg.edgeArm (tUs t - s.lastEdgeUs) (tMs t) s.ppmIdx)
      ((s.withTime t).withEdgeStamp (tUs t)) := by
  rw [exec_edge, edge_of_ppm (s := s.withTime t) t h]
  exact (exec_edgeArm (tUs t - s.lastEdgeUs) (tMs t) ((s.withTime t).withEdgeStamp (tUs t))).symm

theorem exec_edge_of_ne_ppm {s : State} (t : Nat) (h : s.cfg.proto s.psel ≠ .ppm) :
    exec (.edge t) s = .next (s.withTime t) := by
  rw [exec_edge, edge_of_ne_ppm (s := s.withTime t) t h, ran_ok]

/-- Every arm answers a next state: a frame is completed only with a count that lies in the bank (R192). -/
theorem exec_edgeArm_total (w tms : Stamp) (s : State) : ∃ t, exec (s.cfg.edgeArm w tms s.ppmIdx) s = .next t := by
  unfold Cfg.edgeArm
  cases s.cfg.classify w with
  | noise => exact ⟨_, rfl⟩
  | sync =>
    by_cases hn : 4 ≤ s.ppmIdx.toNat ∧ s.ppmIdx.toNat ≤ 16
    · obtain ⟨t, ht⟩ := edgeSyncAcc_total tms hn.2
      exact ⟨t, by simp only [if_pos hn, exec_edgeSyncAcc, ht, ran_ok]⟩
    · exact ⟨_, by simp only [if_neg hn]; rfl⟩
  | chan => exact ⟨_, rfl⟩
  | gap => exact ⟨_, rfl⟩

theorem exec_edge_total (t : Nat) (s : State) : ∃ u, exec (.edge t) s = .next u := by
  by_cases hp : s.cfg.proto s.psel = .ppm
  · rw [exec_edge_of_ppm t hp]
    exact exec_edgeArm_total _ _ ((s.withTime t).withEdgeStamp (tUs t))
  · exact ⟨_, exec_edge_of_ne_ppm t hp⟩

/-- Settles O7: the class is the first test of R64 that holds, and the class names the arm. -/
theorem edgeRunsClassArm : Obligations.EdgeRunsClassArm := by
  intro t s w tms s1 noise sync chan counted
  refine ⟨exec_edge_total t s, exec_edge_of_ne_ppm t, fun hp => ?_⟩
  obtain ⟨hnoise, hsync, hchan, hgap⟩ := s.cfg.classify_iff w
  have arm {i : Instr} (hi : s.cfg.edgeArm w tms s.ppmIdx = i) : exec (.edge t) s = exec i s1 :=
    hi ▸ exec_edge_of_ppm t hp
  refine ⟨fun hn => arm ?_, fun hn hs hc => arm ?_, fun hn hs hc => arm ?_, fun hn hs hc => arm ?_,
    fun hn hs hc => arm ?_⟩
  · rw [Cfg.edgeArm, hnoise.mpr hn]
  · rw [Cfg.edgeArm, hsync.mpr ⟨hn, hs⟩, if_pos hc]
  · rw [Cfg.edgeArm, hsync.mpr ⟨hn, hs⟩, if_neg hc]
  · rw [Cfg.edgeArm, hchan.mpr ⟨hn, hs, hc⟩]
  · rw [Cfg.edgeArm, hgap.mpr ⟨hn, hs, hc⟩]

end Sys2Proof.Machine
end

section
/-! The PPM poll (47_ppm.md R172): its three tests, and the frame that it delivers. -/

namespace Sys2Proof.Machine

theorem exec_stepPpm (now : Stamp) (s : State) : exec (.stepPpm now) s = ran (stepPpm now s) := rfl

section
variable {now : Stamp} {s : State}

theorem stepPpm_of_no_frame (hfc : s.fc = false) : stepPpm now s = .ok (s.withOut (.stepOk false)) := if_pos hfc

theorem stepPpm_of_missed (hfc : s.fc = true) (hmissed : s.cfg.ppmMaxMissed < s.missed.toNat) :
    stepPpm now s = .ok ((s.raise (.eCount s.ppmIdx)).withOut (.stepOk false)) := by
  have htm : tooManyMissed s = true := decide_eq_true hmissed
  simp [stepPpm, hfc, htm]

theorem stepPpm_of_late (hfc : s.fc = true) (hmissed : ¬s.cfg.ppmMaxMissed < s.missed.toNat)
    (hlate : s.cfg.ppmTimeoutMs < elapsed now s.ppmLastFrameMs) :
    stepPpm now s = .ok ((s.raise .eLos).withOut (.stepOk false)) := by
  have htm : tooManyMissed s = false := decide_eq_false hmissed
  have hlp : losPpm now s = true := decide_eq_true hlate
  simp [stepPpm, hfc, htm, hlp]

/-- The poll that passes the three tests copies the latched frame and clears `fc`. -/
theorem stepPpm_of_good (hfc : s.fc = true) (hmissed : ¬s.cfg.ppmMaxMissed < s.missed.toNat)
    (hlate : ¬s.cfg.ppmTimeoutMs < elapsed now s.ppmLastFrameMs) (hn : s.latN.toNat ≤ 16) :
    stepPpm now s = .ok { s with
      ch := copyFirst s.latN.toNat (fun i => normPpm s.lat[i]) s.ch, fc := false, out := .stepOk true } := by
  have htm : tooManyMissed s = false := decide_eq_false hmissed
  have hlp : losPpm now s = false := decide_eq_false hlate
  simp [stepPpm, ppmCritical, State.withOut, hfc, htm, hlp, hn]

end

/-- Settles O45: one lemma for each way through the tests. -/
theorem ppmPollDeliversLatchedFrame : Obligations.PpmPollDeliversLatchedFrame := by
  intro now s many late
  simp only [exec_stepPpm, ran_next_iff]
  exact ⟨stepPpm_of_no_frame, stepPpm_of_missed, stepPpm_of_late, fun hfc hmissed hlate hn =>
    ⟨_, stepPpm_of_good hfc hmissed hlate hn, copyFirst_get _ _ _, rfl⟩⟩

end Sys2Proof.Machine
end

section
/-! A frame is delivered once (47_ppm.md R172): `fc` is set by the edge that completes a frame and by nothing else. -/

namespace Sys2Proof.Machine

/-! ### The poll -/

/-- A poll that returns 1 found a frame and has taken it. -/
theorem stepPpm_success {now : Stamp} {s t : State} (h : stepPpm now s = .ok t) (hout : t.out = .stepOk true) :
    s.fc = true ∧ t.fc = false := by
  cases hfc : s.fc with
  | false =>
    rw [stepPpm_of_no_frame hfc] at h
    cases h
    cases hout
  | true =>
    rcases stepPpm_ok_cases h with ⟨log, rfl⟩ | ⟨ch, rfl⟩
    · cases hout
    · exact ⟨rfl, rfl⟩

/-! ### Who sets `fc` -/

/-- A step that leaves `fc` alone, or clears it, does not set it. -/
abbrev KeepsFcClear (s t : State) : Prop := s.fc = false → t.fc = false

theorem OnlyFramer.keepsFcClear {s t : State} (h : OnlyFramer s t) : KeepsFcClear s t := fun hfc =>
  (show t.eraseFramer.fc = s.eraseFramer.fc from congrArg State.fc h).trans hfc

theorem ranVerdict_keepsFcClear {r : Except Fault (State × Verdict)} {s t : State} (h : ranVerdict r = .next t)
    (hr : ∀ u v, r = .ok (u, v) → OnlyFramer s u) : KeepsFcClear s t := by
  obtain ⟨u, v, hu, rfl⟩ := ranVerdict_next_iff.mp h
  exact (hr u v hu).keepsFcClear

theorem stepPpm_keepsFcClear {now : Stamp} {s t : State} (h : stepPpm now s = .ok t) : KeepsFcClear s t := by
  intro hfc
  rw [stepPpm_of_no_frame hfc] at h
  cases h
  exact hfc

theorem stepIbus_keepsFcClear {s t : State} (h : stepIbus s = .ok t) : KeepsFcClear s t := by
  obtain ⟨ch, out, answers, calls, -, rfl⟩ := stepIbus_ok h
  exact id

theorem stepDispatch_keepsFcClear {t : Nat} {s u : State} (h : stepDispatch t s = .ok u) : KeepsFcClear s u := by
  intro hfc
  rcases (stepDispatch_contract h).fc with hsame | ⟨-, -, hclear⟩
  · exact hsame.trans hfc
  · exact hclear

theorem edgeChan_keepsFcClear (w : Stamp) (s : State) : KeepsFcClear s (edgeChan w s) := by
  rcases edgeChan_cases w s with ⟨h, e⟩ | e <;> rw [e] <;> exact id

/-- The one arm that sets `fc` is that of class SYNC after 4 to 16 pulses (R166, R168). -/
theorem edgeClassified_completes {w tms : Stamp} {s t : State} (h : edgeClassified w tms s = .ok t)
    (hfc : s.fc = false) (ht : t.fc = true) :
    s.cfg.classify w = .sync ∧ 4 ≤ s.ppmIdx.toNat ∧ s.ppmIdx.toNat ≤ 16 := by
  cases hc : s.cfg.classify w <;> simp only [edgeClassified, hc] at h
  case noise => cases h; cases hfc.symm.trans ht
  case sync =>
    split_ifs at h with hn
    case pos => exact ⟨rfl, hn⟩
    case neg => cases h; cases hfc.symm.trans ht
  case chan => cases h; cases (edgeChan_keepsFcClear w s hfc).symm.trans ht
  case gap => cases h; cases hfc.symm.trans ht

theorem exec_edge_completes {t : Nat} {s u : State} (h : exec (.edge t) s = .next u) (hfc : s.fc = false)
    (hu : u.fc = true) : CompletesPpmFrame (.edge t) s := by
  by_cases hp : s.cfg.proto s.psel = .ppm
  case neg =>
    rw [exec_edge_of_ne_ppm t hp] at h
    cases h
    cases hfc.symm.trans hu
  case pos =>
    rw [exec_edge, edge_of_ppm (s := s.withTime t) t hp] at h
    exact .inr ⟨t, rfl, hp,
      edgeClassified_completes (s := (s.withTime t).withEdgeStamp (tUs t)) (ran_next_iff.mp h) hfc hu⟩

/-- Every operation but an edge that completes a frame keeps a clear `fc` clear. -/
theorem exec_completes {i : Instr} {s t : State} (h : exec i s = .next t) (hfc : s.fc = false) (ht : t.fc = true) :
    CompletesPpmFrame i s := by
  by_contra hno
  suffices hkeep : KeepsFcClear s t by cases (hkeep hfc).symm.trans ht
  cases i with
  | edge u => exact absurd (exec_edge_completes h hfc ht) hno
  | edgeSyncAcc w tms => exact absurd (.inl ⟨w, tms, rfl⟩) hno
  | reset => cases h; cases ht
  | edgeChan w => cases h; exact edgeChan_keepsFcClear w s
  | rxpush | stepRsvd | edgeNoise | edgeSyncRej | edgeGap | dsmFrame | dsmPair | unpack11le | scale | normS11 | normU11
  | normU10 | normPpm | normIbus => cases h; exact id
  | step u => exact stepDispatch_keepsFcClear (s := s.withTime u) (ran_next_iff.mp h)
  | stepPpm => exact stepPpm_keepsFcClear (ran_next_iff.mp h)
  | stepIbus => exact stepIbus_keepsFcClear (ran_next_iff.mp h)
  | stepSbus => exact (policyStep_onlyFramer (x := .sbus) (ran_next_iff.mp h)).keepsFcClear
  | stepCrsf => exact (policyStep_onlyFramer (x := .crsf) (ran_next_iff.mp h)).keepsFcClear
  | stepDsm2 => exact (policyStep_onlyFramer (x := .dsm2) (ran_next_iff.mp h)).keepsFcClear
  | stepDsmx => exact (policyStep_onlyFramer (x := .dsmx) (ran_next_iff.mp h)).keepsFcClear
  | stepFport => exact (policyStep_onlyFramer (x := .fport) (ran_next_iff.mp h)).keepsFcClear
  | framerStep => exact (framerStep_onlyFramer (ran_next_iff.mp h)).keepsFcClear
  | sbusByte => exact ranVerdict_keepsFcClear h fun _ _ => policyByte_onlyFramer (x := .sbus)
  | crsfByte => exact ranVerdict_keepsFcClear h fun _ _ => policyByte_onlyFramer (x := .crsf)
  | fportByte => exact ranVerdict_keepsFcClear h fun _ _ => policyByte_onlyFramer (x := .fport)
  | dsmByte b now bits =>
    exact ranVerdict_keepsFcClear h fun _ _ e => policyByte_onlyFramer (dsmByte_eq b now bits s ▸ e)
  | sbusFrame now =>
    exact ranVerdict_keepsFcClear (r := policyFrame .sbus now s) h fun _ _ => policyFrame_onlyFramer (x := .sbus)
  | crsfFrame => exact ranVerdict_keepsFcClear h fun _ _ => policyFrame_onlyFramer (x := .crsf)
  | fportFrame now =>
    exact ranVerdict_keepsFcClear (r := policyFrame .fport now s) h fun _ _ => policyFrame_onlyFramer (x := .fport)

/-! ### Runs -/

theorem execAll_cons_of_next {i : Instr} {is : List Instr} {s t : State} (h : exec i s = .next t) :
    execAll (i :: is) s = execAll is t := by simp only [execAll, h]

theorem execAll_cons_some_iff {i : Instr} {is : List Instr} {s t : State} :
    execAll (i :: is) s = some t ↔ ∃ u, exec i s = .next u ∧ execAll is u = some t := by
  cases h : exec i s <;> simp [execAll, h]

theorem execAll_append {is js : List Instr} {s u : State} (h : execAll is s = some u) :
    execAll (is ++ js) s = execAll js u := by
  induction is generalizing s with
  | nil => cases h; rfl
  | cons i is ih =>
    obtain ⟨v, hv, hrun⟩ := execAll_cons_some_iff.mp h
    exact (execAll_cons_of_next hv).trans (ih hrun)

/-- A run that one more operation ends. -/
theorem execAll_snoc {is : List Instr} {i : Instr} {s u t : State} (h : execAll is s = some u)
    (hi : exec i u = .next t) : execAll (is ++ [i]) s = some t :=
  (execAll_append h).trans (execAll_cons_of_next hi)

/-- A run that ends with `fc` set, from a state with it clear, passes an edge that completes a frame. -/
theorem execAll_completes {is : List Instr} {s t : State} (hfc : s.fc = false) (h : execAll is s = some t)
    (ht : t.fc = true) :
    ∃ before i after u, is = before ++ i :: after ∧ execAll before s = some u ∧ CompletesPpmFrame i u := by
  induction is generalizing s with
  | nil =>
    cases h
    cases hfc.symm.trans ht
  | cons i is ih =>
    obtain ⟨u, hu, hrun⟩ := execAll_cons_some_iff.mp h
    cases hufc : u.fc with
    | true => exact ⟨[], i, is, s, rfl, rfl, exec_completes hu hfc hufc⟩
    | false =>
      obtain ⟨before, j, after, v, rfl, hv, hj⟩ := ih hufc hrun
      exact ⟨i :: before, j, after, v, rfl, (execAll_cons_of_next hu).trans hv, hj⟩

/-- Settles O46: a successful poll takes the frame, and the next one needs the next edge that completes one. -/
theorem ppmFrameDeliveredOnce : Obligations.PpmFrameDeliveredOnce := by
  refine ⟨fun now s t h hout => stepPpm_success (ran_next_iff.mp h) hout, fun s hfc => ⟨fun now => ?_, fun hp t => ?_⟩,
    fun is s t => execAll_completes⟩
  · exact congrArg ran (stepPpm_of_no_frame hfc)
  · obtain ⟨hppm, -⟩ := stepRunsSelectedArm t s
    exact (hppm hp).trans (congrArg ran (stepPpm_of_no_frame (s := s.withTime t) hfc))

end Sys2Proof.Machine
end

section
/-! The source's PPM property (47_ppm.md R174): an edge train of 1500 us pulses and a 4000 us sync gap. -/

namespace Sys2Proof.Machine

/-! ### Widths and stamps -/

/-- Two edges d microseconds apart measure d, whatever the counter's phase (R166). -/
theorem tUs_add_sub_tUs (t d : Nat) : tUs (t + d) - tUs t = BitVec.ofNat 32 d := by
  rw [tUs, tUs, BitVec.ofNat_add, BitVec.add_comm, BitVec.add_sub_cancel]

/-- Milliseconds that lie at most a timeout apart stay so modulo 2^32 (R233). -/
theorem elapsed_tMs_le {t t1 lim : Nat} (hle : t ≤ t1) (hlim : lim < 2 ^ 31) (h : t1 / 1000 ≤ t / 1000 + lim) :
    elapsed (tMs t1) (tMs t) ≤ lim := by
  have hdiv : t / 1000 ≤ t1 / 1000 := Nat.div_le_div_right hle
  simp only [elapsed, tMs, BitVec.toNat_sub, BitVec.toNat_ofNat]
  omega

/-- R7 has every legal configuration take 1500 us for a channel pulse. -/
theorem classify_pulse {c : Cfg} (hc : c.Legal) : c.classify 1500#32 = .chan := by
  have hchan := hc.ppmChannel
  have hsync := hc.ppmSync
  obtain ⟨-, -, hiff, -⟩ := c.classify_iff 1500#32
  rw [hiff]
  simp only [Cfg.NoiseWidth, Cfg.SyncWidth, Cfg.ChanWidth, BitVec.toNat_ofNat]
  omega

/-- R7 has every legal configuration take 4000 us for a sync gap. -/
theorem classify_syncGap {c : Cfg} (hc : c.Legal) : c.classify 4000#32 = .sync := by
  have hchan := hc.ppmChannel
  have hsync := hc.ppmSync
  obtain ⟨-, hiff, -⟩ := c.classify_iff 4000#32
  rw [hiff]
  simp only [Cfg.NoiseWidth, Cfg.SyncWidth, BitVec.toNat_ofNat]
  omega

/-! ### Pulses and the sync gap -/

/-- The state without what an edge of class CHAN writes (R166, R170). -/
def State.erasePulses (s : State) : State :=
  { s with time := 0, lastEdgeUs := 0, pw := Vector.replicate 16 0, ppmIdx := 0 }

/-- From `s` to `u` the edges have captured n pulses of 1500 us, the last edge came at time t, and nothing else was
done. -/
structure CapturedPulses (s : State) (t n : Nat) (u : State) : Prop where
  stamp : u.lastEdgeUs = tUs t
  count : u.ppmIdx.toNat = n
  pulses : ∀ i : Fin 16, i.val < n → u.pw[i] = 1500
  frame : u.erasePulses = s.erasePulses

theorem capturedPulses_zero {s : State} {t : Nat} (hidx : s.ppmIdx = 0) (hstamp : s.lastEdgeUs = tUs t) :
    CapturedPulses s t 0 s :=
  ⟨hstamp, by simp [hidx], fun _ h => absurd h (Nat.not_lt_zero _), rfl⟩

/-- n edges 1500 us apart, the first of them 1500 us after time t. -/
def pulseTrain (t : Nat) : Nat → List Instr
  | 0 => []
  | n + 1 => .edge (t + 1500) :: pulseTrain (t + 1500) n

/-- From `s` to `a` an edge at time t has completed a frame of n pulses of 1500 us; the channels are as they were. -/
structure LatchedPulses (s : State) (t n : Nat) (a : State) : Prop where
  count : a.latN.toNat = n
  pulses : ∀ i : Fin 16, i.val < n → a.lat[i] = 1500
  complete : a.fc = true
  missed : a.missed = 0
  index : a.ppmIdx = 0
  stamp : a.ppmLastFrameMs = tMs t
  cfg : a.cfg = s.cfg
  psel : a.psel = s.psel
  ch : a.ch = s.ch

section
variable {s u : State} {t n : Nat} (hl : s.cfg.Legal) (hp : s.cfg.proto s.psel = .ppm) (h : CapturedPulses s t n u)
include h

/-- The fields outside `erasePulses` that the later edges and the poll read, one by one. -/
theorem CapturedPulses.fields : u.cfg = s.cfg ∧ u.psel = s.psel ∧ u.ch = s.ch ∧ u.lat = s.lat ∧ u.latN = s.latN ∧
    u.fc = s.fc ∧ u.missed = s.missed := by
  have hframe := h.frame
  simp only [State.erasePulses, State.mk.injEq] at hframe
  simp [hframe]

/-- EDGE.CHAN with a width of 1500 captures one more pulse (R170). -/
theorem CapturedPulses.chan (hn : n < 16) : CapturedPulses s t (n + 1) (edgeChan 1500#32 u) := by
  have hcount := h.count
  have hlt : u.ppmIdx.toNat < 16 := by omega
  rw [edgeChan_of_lt 1500#32 hlt]
  refine ⟨h.stamp, ?_, fun i hi => ?_, h.frame⟩
  · show (u.ppmIdx + 1).toNat = n + 1
    bv_omega
  · show (u.pw.set u.ppmIdx.toNat 1500 hlt)[i.val] = 1500
    rw [Vector.getElem_set]
    split
    case isTrue => rfl
    case isFalse => exact h.pulses i (by omega)

/-- EDGE.SYNC.ACC latches the pulses (R168). -/
theorem CapturedPulses.syncAcc (h16 : n ≤ 16) (w : Stamp) :
    ∃ a, exec (.edgeSyncAcc w (tMs t)) u = .next a ∧ LatchedPulses s t n a := by
  obtain ⟨hcfg, hpsel, hch, -⟩ := h.fields
  obtain ⟨a, ha, hlat, haeq⟩ := syncAcceptLatchesFrame w (tMs t) u (h.count.trans_le h16)
  refine ⟨a, ha, ?_⟩
  rw [haeq]
  exact ⟨h.count, fun i hi => (hlat i).trans ((if_pos (h.count.symm ▸ hi)).trans (h.pulses i hi)), rfl, rfl, rfl, rfl,
    hcfg, hpsel, hch⟩

include hp

/-- The next edge, d us later, takes its stamp and runs the arm of the width d (R166). -/
theorem CapturedPulses.exec_edge (d : Nat) : ∃ v, CapturedPulses s (t + d) n v ∧
    exec (.edge (t + d)) u = exec (s.cfg.edgeArm (BitVec.ofNat 32 d) (tMs (t + d)) v.ppmIdx) v := by
  obtain ⟨hcfg, hpsel, -⟩ := h.fields
  refine ⟨(u.withTime (t + d)).withEdgeStamp (tUs (t + d)), ⟨rfl, h.count, h.pulses, h.frame⟩, ?_⟩
  rw [exec_edge_of_ppm (t + d) (hcfg.symm ▸ hpsel.symm ▸ hp), hcfg, h.stamp, tUs_add_sub_tUs]
  rfl

include hl

theorem CapturedPulses.pulse (hn : n < 16) :
    ∃ v, exec (.edge (t + 1500)) u = .next v ∧ CapturedPulses s (t + 1500) (n + 1) v := by
  obtain ⟨v, hv, hex⟩ := h.exec_edge hp 1500
  rw [Cfg.edgeArm, classify_pulse hl] at hex
  exact ⟨edgeChan 1500#32 v, hex, hv.chan hn⟩

theorem CapturedPulses.train (k : Nat) (hk : n + k ≤ 16) :
    ∃ v, execAll (pulseTrain t k) u = some v ∧ CapturedPulses s (t + 1500 * k) (n + k) v := by
  induction k generalizing t n u with
  | zero => exact ⟨u, rfl, h⟩
  | succ k ih =>
    obtain ⟨v, hv, hpulse⟩ := h.pulse hl hp (by omega)
    obtain ⟨w, hw, htrain⟩ := ih hpulse (by omega)
    refine ⟨w, (execAll_cons_of_next hv).trans hw, ?_⟩
    convert htrain using 1 <;> omega

/-- A sync gap after 4 to 16 pulses completes the frame (R174, R168). -/
theorem CapturedPulses.latch (h4 : 4 ≤ n) (h16 : n ≤ 16) :
    ∃ a, exec (.edge (t + 4000)) u = .next a ∧ LatchedPulses s (t + 4000) n a := by
  obtain ⟨v, hv, hex⟩ := h.exec_edge hp 4000
  have hcount := hv.count
  have hcounted : 4 ≤ v.ppmIdx.toNat ∧ v.ppmIdx.toNat ≤ 16 := by omega
  simp only [Cfg.edgeArm, classify_syncGap hl, if_pos hcounted] at hex
  obtain ⟨a, ha, hlatched⟩ := hv.syncAcc h16 4000#32
  exact ⟨a, hex.trans ha, hlatched⟩

/-- A sync gap after fewer than 4 pulses counts a missed frame (R174, R169). -/
theorem CapturedPulses.miss (h4 : n < 4) :
    ∃ a, exec (.edge (t + 4000)) u = .next a ∧ a.missed.toNat = min (s.missed.toNat + 1) 255 ∧ a.fc = s.fc ∧
      a.ppmIdx = 0 ∧ a.latN = s.latN ∧ a.lat = s.lat := by
  obtain ⟨v, hv, hex⟩ := h.exec_edge hp 4000
  obtain ⟨-, -, -, hlat, hlatN, hfc, hmissed⟩ := hv.fields
  have hcount := hv.count
  have hfew : ¬(4 ≤ v.ppmIdx.toNat ∧ v.ppmIdx.toNat ≤ 16) := by omega
  simp only [Cfg.edgeArm, classify_syncGap hl, if_neg hfew, exec_edgeSyncRej] at hex
  exact ⟨edgeSyncRej v, hex, hmissed ▸ edgeSyncRej_missed_toNat v, hfc, rfl, hlatN, hlat⟩

end

/-! ### The poll -/

/-- A poll within the timeout delivers the latched pulses and keeps the other channels (R172). -/
theorem LatchedPulses.poll {s a : State} {t n t1 : Nat} (h : LatchedPulses s t n a) (hl : s.cfg.Legal)
    (hp : s.cfg.proto s.psel = .ppm) (hn : n ≤ 16) (hle : t ≤ t1)
    (hin : t1 / 1000 ≤ t / 1000 + s.cfg.ppmTimeoutMs) :
    ∃ b, exec (.step t1) a = .next b ∧ b.out = .stepOk true ∧ b.fc = false ∧
      ∀ i : Fin 16, b.ch[i] = if i.val < n then 1500 else s.ch[i] := by
  have hstep : exec (.step t1) a = exec (.stepPpm (tMs t1)) (a.withTime t1) := by
    obtain ⟨hppm, -⟩ := stepRunsSelectedArm t1 a
    exact hppm (h.cfg.symm ▸ h.psel.symm ▸ hp)
  have hmissed : ¬a.cfg.ppmMaxMissed < a.missed.toNat := by simp [h.missed]
  have hlate : ¬a.cfg.ppmTimeoutMs < elapsed (tMs t1) a.ppmLastFrameMs := by
    rw [h.cfg, h.stamp, not_lt]
    exact elapsed_tMs_le hle hl.ppmTimeout hin
  obtain ⟨-, -, -, good⟩ := ppmPollDeliversLatchedFrame (tMs t1) (a.withTime t1)
  obtain ⟨b, hb, hch, hbeq⟩ := good h.complete hmissed hlate (h.count.trans_le hn)
  refine ⟨b, hstep.trans hb, by rw [hbeq], by rw [hbeq], fun i => ?_⟩
  have hi : b.ch[i] = if i.val < a.latN.toNat then normPpm a.lat[i] else a.ch[i] := hch i
  rw [hi, h.count, h.ch]
  split
  case isTrue hlt => rw [h.pulses i hlt]; rfl
  case isFalse => rfl

/-! ### The property -/

/-- Settles O48: the edges are a train of six or of three pulses with the gap's edge behind it. -/
theorem ppmSixPulsesAndThreePulses : Obligations.PpmSixPulsesAndThreePulses := by
  intro s t0 t1 hl hp hidx hstamp hle
  have hstart : CapturedPulses s t0 0 s := capturedPulses_zero hidx hstamp
  refine ⟨fun hin => ?six, ?three⟩
  case six =>
    obtain ⟨u, hu, hcap⟩ := hstart.train hl hp 6 (by decide)
    obtain ⟨a, ha, hlat⟩ := hcap.latch hl hp (by decide) (by decide)
    obtain ⟨b, hb, hout, hfc, hch⟩ := hlat.poll hl hp (by decide) hle hin
    exact ⟨a, b, execAll_snoc hu ha, BitVec.eq_of_toNat_eq hlat.count, hlat.complete, hlat.missed, hlat.index,
      hlat.pulses, hb, hout, hfc, hch⟩
  case three =>
    obtain ⟨u, hu, hcap⟩ := hstart.train hl hp 3 (by decide)
    obtain ⟨a, ha, hmiss⟩ := hcap.miss hl hp (by decide)
    exact ⟨a, execAll_snoc hu ha, hmiss⟩

end Sys2Proof.Machine
end

section
/-! The step is total on good states (60_exceptions.md R192): of the events that the environment delivers, RESET and
RXPUSH answer from every state, EDGE has an arm for every width, and STEP completes under the invariant. -/

namespace Sys2Proof.Machine

/-- The invariant holds without the oldest record, which is an event. -/
theorem Inv.of_inbox_cons {s : State} {r : List Byte} {rest : List (List Byte)} (hs : Inv s)
    (hin : s.inbox = r :: rest) : recordIsEvent r = true ∧ Inv (s.withInbox rest) :=
  ⟨hs.eventsOnly r (hin ▸ List.mem_cons_self), hs.legal, hs.chInRange, hs.framerOk,
    captureOk_congr hs.captureOk rfl rfl id, fun q hq => hs.eventsOnly q (hin ▸ List.mem_cons_of_mem r hq)⟩

/-- Every event answers a next state from a good state. -/
theorem exec_event_total {i : Instr} {s : State} (hi : i.isEvent = true) (hs : Inv s) : ∃ t, exec i s = .next t := by
  cases i with
  | reset psel => exact ⟨_, exec_reset psel s⟩
  | rxpush b => exact ⟨_, exec_rxpush b s⟩
  | step u =>
    have hc : CaptureOk (s.withTime u) := captureOk_congr hs.captureOk rfl rfl id
    obtain ⟨t, h⟩ := stepDispatch_total u (s := s.withTime u) hs.legal hs.framerOk hc
    exact ⟨t, ran_next_iff.mpr h⟩
  | edge u => exact exec_edge_total u s
  | _ => cases hi

/-- Settles O54: with no record the step changes nothing; the oldest record is an event, which decodes and answers. -/
theorem noStepFaultsOrRefuses : Obligations.NoStepFaultsOrRefuses := by
  intro s hs
  cases hin : s.inbox with
  | nil => exact ⟨s, step_of_no_record hin⟩
  | cons r rest =>
    obtain ⟨hr, hrest⟩ := hs.of_inbox_cons hin
    cases hd : decodeRecord r with
    | error e => simp only [recordIsEvent, hd, Bool.false_eq_true] at hr
    | ok i =>
      have hi : i.isEvent = true := by rwa [recordIsEvent, hd] at hr
      obtain ⟨t, ht⟩ := exec_event_total hi hrest
      exact ⟨t, (step_of_decoded hin hd).trans ht⟩

end Sys2Proof.Machine
end

section
/-! What no operation reads, besides the decoders' ignorance of the capture state: a rewriting of the state that touches
neither what a decoder uses nor what the edge handler uses commutes with every operation that leaves the time alone. -/

namespace Sys2Proof

/-- The operations that set the time (R33, R90; log entry 5). -/
def Instr.setsTime : Instr → Bool
  | .reset _ => true
  | .step _ => true
  | .edge _ => true
  | _ => false

end Sys2Proof

namespace Sys2Proof.Machine

/-- `f` rewrites only what neither the decoders nor the edge handler read or write. -/
structure OperationsIgnore (f : State → State) : Prop extends DecodersIgnore f where
  psel (s : State) : (f s).psel = s.psel
  lastEdgeUs (s : State) : (f s).lastEdgeUs = s.lastEdgeUs
  pw (s : State) : (f s).pw = s.pw
  ppmIdx (s : State) : (f s).ppmIdx = s.ppmIdx
  lat (s : State) : (f s).lat = s.lat
  latN (s : State) : (f s).latN = s.latN
  fc (s : State) : (f s).fc = s.fc
  missed (s : State) : (f s).missed = s.missed
  ppmLastFrameMs (s : State) : (f s).ppmLastFrameMs = s.ppmLastFrameMs
  withEdgeStamp (s : State) (u : Stamp) : (f s).withEdgeStamp u = f (s.withEdgeStamp u)
  withLatch (s : State) (n : BitVec 5) (bank : Vector Half 16) (tms : Stamp) :
    { f s with latN := n, lat := bank, fc := true, missed := 0, ppmLastFrameMs := tms, ppmIdx := 0 } =
      f { s with latN := n, lat := bank, fc := true, missed := 0, ppmLastFrameMs := tms, ppmIdx := 0 }
  withMissed (s : State) (n : BitVec 8) : { f s with missed := n, ppmIdx := 0 } = f { s with missed := n, ppmIdx := 0 }
  withPulse (s : State) (bank : Vector Half 16) (n : BitVec 5) :
    { f s with pw := bank, ppmIdx := n } = f { s with pw := bank, ppmIdx := n }
  withDelivery (s : State) (ch : Vector Half 16) :
    { f s with ch := ch, fc := false } = f { s with ch := ch, fc := false }

/-- An outcome with its next state rewritten; a fault and a refusal stay what they are. -/
def mapNext (f : State → State) : Host.Outcome State Fault Refusal → Host.Outcome State Fault Refusal
  | .next s => .next (f s)
  | .fault r => .fault r
  | .refused r => .refused r

@[simp] theorem mapNext_next (f : State → State) (s : State) : mapNext f (.next s) = .next (f s) := rfl

theorem mapNext_eq_next_iff {f : State → State} {o : Host.Outcome State Fault Refusal} {t : State} :
    mapNext f o = .next t ↔ ∃ u, o = .next u ∧ t = f u := by
  cases o <;> simp [mapNext, eq_comm]

theorem ran_map (f : State → State) (r : Except Fault State) : ran (f <$> r) = mapNext f (ran r) := by
  cases r <;> rfl

namespace OperationsIgnore

variable {f : State → State} (hf : OperationsIgnore f)
include hf

theorem ranVerdict_map (r : Except Fault (State × Verdict)) :
    ranVerdict (Prod.map f id <$> r) = mapNext f (ranVerdict r) := by
  cases r with
  | error e => rfl
  | ok p => exact congrArg Host.Outcome.next (hf.withOut p.1 _)

/-! ### FRAMER.STEP -/

theorem policyFrameLen_eq (s : State) (x : Policy) : policyFrameLen (f s) x = policyFrameLen s x := by
  cases x with
  | crsf => exact congrArg BitVec.toNat (hf.expLen s)
  | _ => rfl

theorem policyFrame_comm (x : Policy) (now : Stamp) (s : State) :
    policyFrame x now (f s) = Prod.map f id <$> policyFrame x now s := by
  cases x with
  | sbus => exact congrArg Except.ok (hf.sbusFrame_comm now s)
  | crsf => exact hf.crsfFrame_comm now s
  | dsm2 => exact congrArg Except.ok (hf.dsmFrame_comm now .ten s)
  | dsmx => exact congrArg Except.ok (hf.dsmFrame_comm now .eleven s)
  | fport => exact congrArg Except.ok (hf.fportFrame_comm now s)

theorem framerStore_comm (x : Policy) (b : Byte) (now : Stamp) (s : State) :
    framerStore x b now (f s) = Prod.map f id <$> framerStore x b now s := by
  simp only [framerStore, hf.storeByte_comm]
  cases storeByte b s with
  | error e => rfl
  | ok u =>
    simp only [Except.map_ok, hf.idx, hf.policyFrameLen_eq, hf.withIdx, hf.policyFrame_comm, map_if, Prod.map_apply,
      id_eq]

theorem framerByte_comm (x : Policy) (b : Byte) (now : Stamp) (s : State) :
    framerByte x b now (f s) = Prod.map f id <$> framerByte x b now s := by
  simp only [framerByte, hf.cfg, hf.gapCheck_comm, hf.idx, hf.raise, hf.withIdx, hf.withExpLen, hf.framerStore_comm,
    map_if, Except.map_ok, Prod.map_apply, id_eq]
  cases policyLengthOk (gapCheck (policyByteTo s.cfg x) now s).cfg x with
  | none => rfl
  | some ok => simp only [map_if, Except.map_ok, Prod.map_apply, id_eq]

theorem framerStep_comm (x : Policy) (now : Stamp) (s : State) :
    framerStep x now (f s) = f <$> framerStep x now s := by
  rw [framerStep, hf.cfg]
  exact hf.byteStreamStep_comm (fun b t => hf.framerByte_comm x b now t) _ now s

/-! ### The PPM poll and the dispatcher -/

theorem ppmCritical_comm (s : State) : ppmCritical (f s) = f <$> ppmCritical s := by
  rw [ppmCritical, hf.withDelivery, hf.latN, hf.lat, hf.ch, ppmCritical, map_if, Except.map_ok, Except.map_error]

theorem tooManyMissed_eq (s : State) : tooManyMissed (f s) = tooManyMissed s := by
  rw [tooManyMissed, hf.cfg, hf.missed, tooManyMissed]

theorem losPpm_eq (now : Stamp) (s : State) : losPpm now (f s) = losPpm now s := by
  rw [losPpm, hf.cfg, hf.ppmLastFrameMs, losPpm]

theorem stepPpm_comm (now : Stamp) (s : State) : stepPpm now (f s) = f <$> stepPpm now s := by
  simp only [stepPpm, hf.fc, hf.tooManyMissed_eq, hf.losPpm_eq, hf.ppmIdx, hf.raise, hf.withOut, hf.ppmCritical_comm,
    map_if, Except.map_ok]
  cases ppmCritical s with
  | error e => rfl
  | ok u => simp only [Except.map_ok, hf.withOut]

theorem stepDispatch_comm (t : Nat) (s : State) : stepDispatch t (f s) = f <$> stepDispatch t s := by
  simp only [stepDispatch, hf.cfg, hf.psel]
  cases s.cfg.proto s.psel with
  | ppm => exact hf.stepPpm_comm (tMs t) s
  | ibus => exact hf.stepIbus_comm s
  | sbus => exact hf.policyStep_comm .sbus (tMs t) s
  | crsf => exact hf.policyStep_comm .crsf (tMs t) s
  | dsm2 => exact hf.policyStep_comm .dsm2 (tMs t) s
  | dsmx => exact hf.policyStep_comm .dsmx (tMs t) s
  | fport => exact hf.policyStep_comm .fport (tMs t) s
  | rsvd => exact congrArg Except.ok (hf.withOut s _)

/-! ### The edge handler -/

theorem edgeSyncAcc_comm (tms : Stamp) (s : State) : edgeSyncAcc tms (f s) = f <$> edgeSyncAcc tms s := by
  rw [edgeSyncAcc, hf.withLatch, hf.ppmIdx, hf.pw, hf.lat, edgeSyncAcc, map_if, Except.map_ok, Except.map_error]

theorem edgeSyncRej_comm (s : State) : edgeSyncRej (f s) = f (edgeSyncRej s) := by
  rw [edgeSyncRej, hf.raise, hf.ppmIdx, hf.missed]
  exact hf.withMissed _ _

theorem edgeChan_comm (w : Stamp) (s : State) : edgeChan w (f s) = f (edgeChan w s) := by
  simp only [edgeChan, hf.ppmIdx, hf.pw, hf.withPulse, apply_dite f]

theorem edgeClassified_comm (w tms : Stamp) (s : State) :
    edgeClassified w tms (f s) = f <$> edgeClassified w tms s := by
  simp only [edgeClassified, hf.cfg]
  cases s.cfg.classify w with
  | noise => exact congrArg Except.ok (hf.raise s _)
  | sync => simp only [hf.ppmIdx, hf.edgeSyncAcc_comm, hf.edgeSyncRej_comm, map_if, Except.map_ok]
  | chan => exact congrArg Except.ok (hf.edgeChan_comm w s)
  | gap => exact congrArg Except.ok (hf.raise s _)

theorem edgeEnabled_eq (s : State) : edgeEnabled (f s) = edgeEnabled s := by
  rw [edgeEnabled, hf.cfg, hf.psel, edgeEnabled]

theorem edge_comm (t : Nat) (s : State) : edge t (f s) = f <$> edge t s := by
  simp only [edge, hf.edgeEnabled_eq, enterEdgeHandler, hf.lastEdgeUs, hf.withEdgeStamp, hf.edgeClassified_comm, map_if,
    Except.map_ok]

/-! ### Every operation that leaves the time alone -/

theorem exec_comm {i : Instr} (hi : i.setsTime = false) (s : State) : exec i (f s) = mapNext f (exec i s) := by
  have policy (x : Policy) (now : Stamp) : ran (policyStep x now (f s)) = mapNext f (ran (policyStep x now s)) := by
    rw [hf.policyStep_comm, ran_map]
  have byte (x : Policy) (b : Byte) (now : Stamp) :
      ranVerdict (policyByte x now b (f s)) = mapNext f (ranVerdict (policyByte x now b s)) := by
    rw [hf.policyByte_comm, hf.ranVerdict_map]
  have frame (x : Policy) (now : Stamp) :
      ranVerdict (policyFrame x now (f s)) = mapNext f (ranVerdict (policyFrame x now s)) := by
    rw [hf.policyFrame_comm, hf.ranVerdict_map]
  have returns (o : Output) :
      Host.Outcome.next (φ := Fault) (ρ := Refusal) ((f s).withOut o) = mapNext f (.next (s.withOut o)) :=
    congrArg Host.Outcome.next (hf.withOut s o)
  cases i with
  | reset => cases hi
  | step => cases hi
  | edge => cases hi
  | rxpush b => rw [exec_rxpush, exec_rxpush, hf.rxq, hf.withRxq, mapNext_next]
  | stepPpm now => rw [exec_stepPpm, exec_stepPpm, hf.stepPpm_comm, ran_map]
  | stepIbus => exact (congrArg ran (hf.stepIbus_comm s)).trans (ran_map f _)
  | stepSbus now => exact policy .sbus now
  | stepCrsf now => exact policy .crsf now
  | stepDsm2 now => exact policy .dsm2 now
  | stepDsmx now => exact policy .dsmx now
  | stepFport now => exact policy .fport now
  | stepRsvd => exact returns _
  | edgeNoise w => exact congrArg Host.Outcome.next (hf.raise s _)
  | edgeSyncAcc w tms => rw [exec_edgeSyncAcc, exec_edgeSyncAcc, hf.edgeSyncAcc_comm, ran_map]
  | edgeSyncRej w => rw [exec_edgeSyncRej, exec_edgeSyncRej, hf.edgeSyncRej_comm, mapNext_next]
  | edgeChan w => rw [exec_edgeChan, exec_edgeChan, hf.edgeChan_comm, mapNext_next]
  | edgeGap w => exact congrArg Host.Outcome.next (hf.raise s _)
  | framerStep x now => exact (congrArg ran (hf.framerStep_comm x now s)).trans (ran_map f _)
  | sbusByte b now => exact byte .sbus b now
  | sbusFrame now => exact frame .sbus now
  | crsfByte b now => exact byte .crsf b now
  | crsfFrame now => exact frame .crsf now
  | dsmByte b now bits =>
    cases bits with
    | ten => exact byte .dsm2 b now
    | eleven => exact byte .dsmx b now
  | dsmFrame now bits =>
    cases bits with
    | ten => exact frame .dsm2 now
    | eleven => exact frame .dsmx now
  | dsmPair v bits => rw [exec_dsmPair, exec_dsmPair, hf.ch, hf.withCh, mapNext_next]
  | fportByte b now => exact byte .fport b now
  | fportFrame now => exact frame .fport now
  | unpack11le => exact returns _
  | scale => exact returns _
  | normS11 => exact returns _
  | normU11 => exact returns _
  | normU10 => exact returns _
  | normPpm => exact returns _
  | normIbus => exact returns _

end OperationsIgnore

end Sys2Proof.Machine
end

section
/-! The event log (60_exceptions.md R190; log entry 7): putting labels in front of it commutes with every operation. -/

namespace Sys2Proof.Machine

/-- The state with labels raised before those of its log. -/
def State.withEarlierLabels (l : List Label) (s : State) : State := { s with log := l ++ s.log }

/-- An error appends its label behind the earlier ones. -/
theorem withEarlierLabels_raise (l : List Label) (s : State) (e : Label) :
    (s.withEarlierLabels l).raise e = (s.raise e).withEarlierLabels l := by
  simp only [State.raise, State.withEarlierLabels, List.append_assoc]

theorem withEarlierLabels_operationsIgnore (l : List Label) : OperationsIgnore (State.withEarlierLabels l) := by
  constructor
  case toDecodersIgnore =>
    constructor
    case raise => exact withEarlierLabels_raise l
    all_goals intros; rfl
  all_goals intros; rfl

/-- No operation reads the labels raised before it, the operations that set the time included. -/
theorem exec_withEarlierLabels (i : Instr) (l : List Label) (s : State) :
    exec i (s.withEarlierLabels l) = mapNext (State.withEarlierLabels l) (exec i s) := by
  have hl := withEarlierLabels_operationsIgnore l
  cases hi : i.setsTime with
  | false => exact hl.exec_comm hi s
  | true =>
    cases i with
    | reset psel => rfl
    | step t => exact (congrArg ran (hl.stepDispatch_comm t (s.withTime t))).trans (ran_map _ _)
    | edge t => exact (congrArg ran (hl.edge_comm t (s.withTime t))).trans (ran_map _ _)
    | _ => cases hi

/-- Settles O59: the labels that the operation appends are those it raises on an empty log. -/
theorem eventLogIsNeverRead : Obligations.EventLogIsNeverRead := by
  intro i s t l h
  have onEmpty (l : List Label) :
      exec i { s with log := l } = mapNext (State.withEarlierLabels l) (exec i { s with log := [] }) := by
    rw [← exec_withEarlierLabels, State.withEarlierLabels, List.append_nil]
  obtain ⟨u, hu, rfl⟩ := mapNext_eq_next_iff.mp ((onEmpty s.log).symm.trans h)
  exact ⟨u.log, rfl, by rw [onEmpty, hu]; rfl⟩

end Sys2Proof.Machine
end

section
/-! The order of event times (60_exceptions.md R204; log entry 5). -/

namespace Sys2Proof

/-- The time after an operation that ran at `now`. -/
def Instr.timeAfter (now : Nat) : Instr → Nat
  | .reset _ => 0
  | .step t => t
  | .edge t => t
  | _ => now

end Sys2Proof

namespace Sys2Proof.Machine

theorem withTime_operationsIgnore (n : Nat) : OperationsIgnore (·.withTime n) := by
  constructor
  case toDecodersIgnore => constructor <;> intros <;> rfl
  all_goals intros; rfl

/-- An operation that commutes with setting the time has not set it. -/
theorem exec_time_of_not_setsTime {i : Instr} {s t : State} (hi : i.setsTime = false) (h : exec i s = .next t) :
    t.time = s.time := by
  have hcomm : exec i s = mapNext (·.withTime s.time) (exec i s) := (withTime_operationsIgnore s.time).exec_comm hi s
  rw [h, mapNext_next] at hcomm
  have hsame : t = t.withTime s.time := Host.Outcome.next.inj hcomm
  exact (congrArg State.time hsame).trans (State.withTime_time t s.time)

theorem exec_time {i : Instr} {s t : State} (h : exec i s = .next t) : t.time = i.timeAfter s.time := by
  cases i with
  | reset => cases h; rfl
  | step u =>
    obtain ⟨-, -, -, -, -, -, -, -, -, htime, -⟩ := (stepDispatch_contract (ran_next_iff.mp h)).frame.fields
    exact htime
  | edge u =>
    have hframe := edge_onlyCapture (ran_next_iff.mp h)
    exact show t.eraseCapture.time = (s.withTime u).eraseCapture.time from congrArg State.time hframe
  | _ => exact exec_time_of_not_setsTime rfl h

/-- The oldest record of an ordered environment: its operation leaves the rest ordered from its own time on, and that is
no earlier unless it is a RESET. -/
theorem timesOrdered_cons {now : Nat} {r : List Byte} {rest : List (List Byte)} {i : Instr}
    (hd : decodeRecord r = .ok i) (h : timesOrdered now (r :: rest)) :
    timesOrdered (i.timeAfter now) rest ∧ (i.timeAfter now = 0 ∨ now ≤ i.timeAfter now) := by
  cases i <;> simp only [timesOrdered, hd] at h
  case reset => exact ⟨h, .inl rfl⟩
  case step => exact ⟨h.2, .inr h.1⟩
  case edge => exact ⟨h.2, .inr h.1⟩
  all_goals exact ⟨h, .inr le_rfl⟩

/-- Settles O57: the step takes the oldest record and runs its operation, which moves the time as the order of the
records expects and leaves the other records alone. -/
theorem stepKeepsTimesOrdered : Obligations.StepKeepsTimesOrdered := by
  intro s t hs h
  rcases step_next_cases h with rfl | ⟨r, rest, i, hin, hd, hex⟩
  · exact ⟨hs, .inr le_rfl⟩
  · have htime : t.time = i.timeAfter s.time := exec_time (s := s.withInbox rest) hex
    obtain ⟨-, hinbox, -⟩ := selectorChangesOnlyAtReset i _ t hex
    rw [htime, hinbox]
    exact timesOrdered_cons hd (hin ▸ hs)

end Sys2Proof.Machine
end

section
/-! The IBUS adapter (48_ibus.md R186): one call of the collaborator, and what the answer does. -/

namespace Sys2Proof.Machine

theorem exec_stepIbus (s : State) : exec .stepIbus s = ran (ibusCopy (ibusAdvance s).1 (ibusAdvance s).2) := rfl

theorem ibusCopy_of_nothing_new {a : IbusAnswer} (s : State) (h : a.new = false) :
    ibusCopy a s = .ok (s.withOut (.stepOk false)) := if_pos h

theorem ibusCopy_of_new {a : IbusAnswer} {s : State} (h : a.new = true) (hn : s.cfg.ibusNch ≤ 16) :
    ibusCopy a s =
      .ok ((s.withCh (copyFirst s.cfg.ibusNch (fun i => normIbus a.vals[i]) s.ch)).withOut (.stepOk true)) := by
  rw [ibusCopy, if_neg (by simp [h]), if_pos hn]

/-- Settles O49: the call takes one answer, announced or free, and the copy is R186's. -/
theorem ibusStepCopiesAnswer : Obligations.IbusStepCopiesAnswer := by
  intro a s s1 hcall
  have hadv : ibusAdvance s = (a, s1) := by
    rcases hcall with ⟨rest, hans, rfl⟩ | ⟨hans, rfl, rfl⟩
    · exact ibusAdvance_cons hans
    · exact ibusAdvance_nil hans
  have hkept : s1.cfg = s.cfg ∧ s1.ch = s.ch := by
    rcases hcall with ⟨rest, -, rfl⟩ | ⟨-, -, rfl⟩ <;> exact ⟨rfl, rfl⟩
  obtain ⟨hcfg, hch⟩ := hkept
  rw [exec_stepIbus, hadv]
  refine ⟨fun hold => congrArg ran (ibusCopy_of_nothing_new s1 hold), fun hnew hn => ?_⟩
  refine ⟨_, congrArg ran (ibusCopy_of_new hnew (hcfg.symm ▸ hn)), fun i => ?_, rfl⟩
  rw [← hcfg, ← hch]
  exact copyFirst_get _ _ _ i

end Sys2Proof.Machine
end
